-- ==== Sys2Proof/Word.lean ====
section
/-! DEFINITION. The word types of the CORE (spec/00_scope.md R5, R7): every width the spec names. -/

namespace Sys2Proof

/-- A general register, a timer, the stack pointer, a byte of memory (R5 `XLEN` = 8, R63). -/
abbrev Byte := BitVec 8

/-- An instruction word, `I`, `pc`, a stack entry (R5 `ILEN` = 16, `ALEN` = 16). -/
abbrev Word := BitVec 16

/-- A four-bit field of an instruction word: a register index `X`, `Y`, or the nibble `N` (R91). Every value is
legal (R93). -/
abbrev Nibble := BitVec 4

/-- The twelve-bit literal address `NNN` of an instruction word (R91). -/
abbrev Addr12 := BitVec 12

end Sys2Proof
end

