-- ==== Sys2Proof/Config.lean ====
section
/-! DEFINITION. What an implementation fixes: the constants of spec/00_scope.md R5, the open parameters of R6, and the
free values (constants with no body: nothing in Lean can evaluate one or prove a value of it). The parameters that
have a setting in this model (the dispatch keys, the font, the text of a listing line) stand in files of their own,
Decode.lean, Machine/Memory.lean, Machine/Disasm.lean. -/

namespace Sys2Proof.Config

/-- `MEM_SIZE`, bytes of memory (R5). -/
abbrev memSize : Nat := 4096
/-- `ORIGIN`, the load address and the reset value of `pc` (R5, R23). -/
abbrev origin : Nat := 0x200
/-- `MAX_PROG`, the largest program image in bytes (R5, R280). -/
abbrev maxProg : Nat := 3584
/-- `GLYPH_SIZE`, bytes of one font glyph (R5, R211). -/
abbrev glyphSize : Nat := 5
/-- `FB_W`, columns of the framebuffer (R5, R27). -/
abbrev fbWidth : Nat := 64
/-- `FB_H`, rows of the framebuffer (R5, R27). -/
abbrev fbHeight : Nat := 32
/-- `STACK_N`, entries of the return stack (R5, R24). -/
abbrev stackSize : Nat := 16
/-- `NKEY`, keypad lines (R5, R28). -/
abbrev keyCount : Nat := 16
/-- `NREG`, general registers (R5, R20). -/
abbrev regCount : Nat := 16
/-- `DEFAULT_IPS`, the pacing rate of a program the rate table does not name (R5, R281). -/
abbrev defaultIps : Nat := 500

/-- The two widths the second-level dispatch key of families 0 and E can have (R6 `SUBKEY_0`, `SUBKEY_E`; R95). -/
inductive SubKey where
  | nibble
  | byte
  deriving DecidableEq, Repr, Inhabited

/-- FREE VALUE, R172 and D28: the byte the `n`-th execution of `RND` draws, under no law (log 7). -/
opaque randByte : Nat → Byte

/-- FREE VALUE, R33 and R39: what `T0` holds after a `Load` (log 6). -/
opaque unspecifiedT0 : Nat → Nat

/-- FREE VALUE, R33 and R39: what `EXEC` holds after a `Load` (log 6). -/
opaque unspecifiedExec : Nat → Nat

/-- FREE VALUE, R297: how many cycles fit into `ms` milliseconds of the wall clock (arguments: the draw, `ms`); a free
natural number (log 11). -/
opaque warpCycles : Nat → Nat → Nat

/-- FREE VALUE, R102: the key width of family 0 the hardware's disassembler has, while the spec leaves it open; it is
read by the listing alone (log 14). -/
opaque listingKey0 : SubKey

/-- FREE VALUE, R102: the same for family E (log 14). -/
opaque listingKeyE : SubKey

/-- OPEN PARAMETER `WARP_HONOURS_STOP` (R6, R297, D31; log 12). -/
opaque warpHonoursStop : Bool

/-- OPEN PARAMETER behind `SPEED_STEP`, which is at least 1 (R249, D23; log 13). -/
opaque speedStepLess1 : Nat

/-- OPEN PARAMETER behind `SPEED_MIN`, which is at least 1 (R250, D23; log 13). -/
opaque speedMinLess1 : Nat

/-- `SPEED_STEP` (R249): some number of at least 1. -/
def speedStep : Nat := speedStepLess1 + 1

/-- `SPEED_MIN` (R250): some number of at least 1. -/
def speedMin : Nat := speedMinLess1 + 1

/-- OPEN PARAMETER `RATE_TABLE` (R6, R281, D24): a finite map from a program's name to its rate (log 13). -/
opaque rateTable : List (String × Nat)

/-- OPEN PARAMETER `TIMER_HZ` (R6, R246, D17): the rate of `TimerTick`; no rule depends on it (log 13). -/
opaque timerHz : Nat

end Sys2Proof.Config
end

