-- ==== Sys2Proof/Syntax.lean ====
section
/-! DEFINITION. The instructions: one constructor per row of spec/opcode_table.json, with the operands of
spec/30_encoding.md R95. Bits that R98 says are ignored are no operand. -/

namespace Sys2Proof

/-- The 34 mapped instructions (R95) and the no-op of unmapped words (R121), in the table's order. `x` and `y` are the
register fields `X` and `Y`, `nn` and `nnn` the literals `NN` and `NNN`, `n` the row count `N`. -/
inductive Instr where
  /-- `CLS` (R122). -/
  | cls
  /-- `RET` (R123). -/
  | ret
  /-- `JP NNN` (R124). -/
  | jp (nnn : Addr12)
  /-- `CALL NNN` (R125). -/
  | call (nnn : Addr12)
  /-- `SE Vx,NN` (R126). -/
  | seImm (x : Nibble) (nn : Byte)
  /-- `SNE Vx,NN` (R127). -/
  | sneImm (x : Nibble) (nn : Byte)
  /-- `SE Vx,Vy` (R128). -/
  | seReg (x y : Nibble)
  /-- `SNE Vx,Vy` (R129). -/
  | sneReg (x y : Nibble)
  /-- `LD Vx,NN` (R140). -/
  | ldImm (x : Nibble) (nn : Byte)
  /-- `ADD Vx,NN` (R141). -/
  | addImm (x : Nibble) (nn : Byte)
  /-- `LD Vx,Vy` (R142). -/
  | ldReg (x y : Nibble)
  /-- `OR Vx,Vy` (R143). -/
  | orReg (x y : Nibble)
  /-- `AND Vx,Vy` (R144). -/
  | andReg (x y : Nibble)
  /-- `XOR Vx,Vy` (R145). -/
  | xorReg (x y : Nibble)
  /-- `ADD Vx,Vy` (R146). -/
  | addReg (x y : Nibble)
  /-- `SUB Vx,Vy` (R147). -/
  | sub (x y : Nibble)
  /-- `SHR Vx` (R148); `Y` is encoded and ignored. -/
  | shr (x : Nibble)
  /-- `SUBN Vx,Vy` (R149). -/
  | subn (x y : Nibble)
  /-- `SHL Vx` (R150); `Y` is encoded and ignored. -/
  | shl (x : Nibble)
  /-- `LD I,NNN` (R170). -/
  | ldI (nnn : Addr12)
  /-- `JP V0,NNN` (R171). -/
  | jpV0 (nnn : Addr12)
  /-- `RND Vx,NN` (R172). -/
  | rnd (x : Nibble) (nn : Byte)
  /-- `DRW Vx,Vy,N` (R173). -/
  | drw (x y n : Nibble)
  /-- `SKP Vx` (R190). -/
  | skp (x : Nibble)
  /-- `SKNP Vx` (R191). -/
  | sknp (x : Nibble)
  /-- `LD Vx,DT` (R192). -/
  | ldVxDT (x : Nibble)
  /-- `LD DT,Vx` (R193). -/
  | ldDTVx (x : Nibble)
  /-- `LD ST,Vx` (R194). -/
  | ldSTVx (x : Nibble)
  /-- `LD Vx,K` (R195). -/
  | ldVxK (x : Nibble)
  /-- `ADD I,Vx` (R210). -/
  | addI (x : Nibble)
  /-- `LD F,Vx` (R211). -/
  | ldF (x : Nibble)
  /-- `LD B,Vx` (R212). -/
  | ldB (x : Nibble)
  /-- `LD [I],Vx` (R213). -/
  | stBlock (x : Nibble)
  /-- `LD Vx,[I]` (R214). -/
  | ldBlock (x : Nibble)
  /-- An unmapped word (R96, R121). -/
  | nop
  deriving DecidableEq, Repr

end Sys2Proof
end

