-- ==== Sys2Proof/WellFormed.lean ====
section
/-! DEFINITION. What is well formed. Every operand value of every instruction is legal (spec/30_encoding.md R91, R93),
so an instruction is well formed by its type alone. What can be ill formed is a WORD: the assembler emits zero in
ignored bits (R98, R100), and a word that has another value there, or that is no mapped word, is not one the
assembler emits. -/

namespace Sys2Proof

/-- `X`, `Y`, `N`, `NN`, `NNN` may each hold any value (R91, R93): there is nothing to refuse. -/
def Instr.wellFormed : Instr → Bool
  | .cls | .ret | .nop => true
  | .jp _ | .call _ | .ldI _ | .jpV0 _ => true
  | .seImm _ _ | .sneImm _ _ | .ldImm _ _ | .addImm _ _ | .rnd _ _ => true
  | .seReg _ _ | .sneReg _ _ | .ldReg _ _ | .orReg _ _ | .andReg _ _ | .xorReg _ _ => true
  | .addReg _ _ | .sub _ _ | .subn _ _ => true
  | .shr _ | .shl _ | .skp _ | .sknp _ | .ldVxDT _ | .ldDTVx _ | .ldSTVx _ | .ldVxK _ => true
  | .addI _ | .ldF _ | .ldB _ | .stBlock _ | .ldBlock _ => true
  | .drw _ _ _ => true

/-- The masks and matches of R95 with the ignored bits of R98 (family 0 bits 11:8, families 5 and 9 bits 3:0, the
shifts' bits 7:4) required to be zero: the words the assembler of R100 emits for the 34 mnemonics. -/
def canonicalForms : List (Word × Word) :=
  [ (0xFFFF, 0x00E0), (0xFFFF, 0x00EE), (0xF000, 0x1000), (0xF000, 0x2000), (0xF000, 0x3000), (0xF000, 0x4000),
    (0xF00F, 0x5000), (0xF00F, 0x9000), (0xF000, 0x6000), (0xF000, 0x7000), (0xF00F, 0x8000), (0xF00F, 0x8001) ] ++
  [ (0xF00F, 0x8002), (0xF00F, 0x8003), (0xF00F, 0x8004), (0xF00F, 0x8005), (0xF0FF, 0x8006), (0xF00F, 0x8007),
    (0xF0FF, 0x800E), (0xF000, 0xA000), (0xF000, 0xB000), (0xF000, 0xC000), (0xF000, 0xD000), (0xF0FF, 0xE09E) ] ++
  [ (0xF0FF, 0xE0A1), (0xF0FF, 0xF007), (0xF0FF, 0xF015), (0xF0FF, 0xF018), (0xF0FF, 0xF00A), (0xF0FF, 0xF01E),
    (0xF0FF, 0xF029), (0xF0FF, 0xF033), (0xF0FF, 0xF055), (0xF0FF, 0xF065) ]

/-- Is `w` a word the assembler emits for a mnemonic: mapped, its ignored bits zero (R98, R100)? -/
def canonicalWord (w : Word) : Bool :=
  canonicalForms.any fun p => w &&& p.1 == p.2

end Sys2Proof
end

