-- ==== Sys2Proof/Decode.lean ====
section
/-! DEFINITION. The decoder and the encoder, from spec/30_encoding.md: fields R91, dispatch R94 to R98, the decode
function R103, the opcode map R95. -/

namespace Sys2Proof

/-- The setting of `SUBKEY_0` in this model: `none`, the spec leaves it OPEN (R6, R97, D3; log 10). -/
def subkey0 : Option Config.SubKey := none

/-- The setting of `SUBKEY_E` in this model: `none`, the spec leaves it OPEN (R6, R97, D3; log 10). -/
def subkeyE : Option Config.SubKey := none

/-- Why the decoder gives no instruction. -/
inductive DecodeReject where
  /-- The word's meaning depends on a key width that is left open (R97). -/
  | ambiguous (w : Word)
  /-- Fewer than the two bytes of an instruction (R90). -/
  | truncated
  deriving DecidableEq, Repr

/-- `op = w[15:12]` (R91). -/
def fieldOp (w : Word) : Nibble := w.extractLsb' 12 4
/-- `X = w[11:8]` (R91). -/
def fieldX (w : Word) : Nibble := w.extractLsb' 8 4
/-- `Y = w[7:4]` (R91). -/
def fieldY (w : Word) : Nibble := w.extractLsb' 4 4
/-- `N = w[3:0]` (R91). -/
def fieldN (w : Word) : Nibble := w.extractLsb' 0 4
/-- `NN = w[7:0]` (R91). -/
def fieldNN (w : Word) : Byte := w.extractLsb' 0 8
/-- `NNN = w[11:0]` (R91). -/
def fieldNNN (w : Word) : Addr12 := w.extractLsb' 0 12

/-- A word of an open family whose low byte is not a mapped one but whose low nibble is: `byNibble` under a nibble key,
the no-op under a byte key, ambiguous while the key is open (R97, R103). -/
def decodeOpen (key : Option Config.SubKey) (w : Word) (byNibble : Instr) : Except DecodeReject Instr :=
  match key with
  | some .nibble => .ok byNibble
  | some .byte => .ok .nop
  | none => .error (.ambiguous w)

/-- Family 0 (R103). -/
def decodeFamily0 (key : Option Config.SubKey) (w : Word) : Except DecodeReject Instr :=
  if fieldNN w = 0xE0 then .ok .cls
  else if fieldNN w = 0xEE then .ok .ret
  else if fieldN w = 0x0 then decodeOpen key w .cls
  else if fieldN w = 0xE then decodeOpen key w .ret
  else .ok .nop

/-- Family E (R103). -/
def decodeFamilyE (key : Option Config.SubKey) (w : Word) : Except DecodeReject Instr :=
  if fieldNN w = 0x9E then .ok (.skp (fieldX w))
  else if fieldNN w = 0xA1 then .ok (.sknp (fieldX w))
  else if fieldN w = 0xE then decodeOpen key w (.skp (fieldX w))
  else if fieldN w = 0x1 then decodeOpen key w (.sknp (fieldX w))
  else .ok .nop

/-- Family 8, by the low nibble (R103); `Y` of the shifts is ignored (R98). -/
def decodeFamily8 (w : Word) : Instr :=
  if fieldN w = 0x0 then .ldReg (fieldX w) (fieldY w)
  else if fieldN w = 0x1 then .orReg (fieldX w) (fieldY w)
  else if fieldN w = 0x2 then .andReg (fieldX w) (fieldY w)
  else if fieldN w = 0x3 then .xorReg (fieldX w) (fieldY w)
  else if fieldN w = 0x4 then .addReg (fieldX w) (fieldY w)
  else if fieldN w = 0x5 then .sub (fieldX w) (fieldY w)
  else if fieldN w = 0x6 then .shr (fieldX w)
  else if fieldN w = 0x7 then .subn (fieldX w) (fieldY w)
  else if fieldN w = 0xE then .shl (fieldX w)
  else .nop

/-- Family F, by the low byte (R103). -/
def decodeFamilyF (w : Word) : Instr :=
  if fieldNN w = 0x07 then .ldVxDT (fieldX w)
  else if fieldNN w = 0x0A then .ldVxK (fieldX w)
  else if fieldNN w = 0x15 then .ldDTVx (fieldX w)
  else if fieldNN w = 0x18 then .ldSTVx (fieldX w)
  else if fieldNN w = 0x1E then .addI (fieldX w)
  else if fieldNN w = 0x29 then .ldF (fieldX w)
  else if fieldNN w = 0x33 then .ldB (fieldX w)
  else if fieldNN w = 0x55 then .stBlock (fieldX w)
  else if fieldNN w = 0x65 then .ldBlock (fieldX w)
  else .nop

/-- `Decode(w)` of R103 for given settings of `SUBKEY_0` and `SUBKEY_E` (`none`: left open). Total on all words. -/
def decodeWith (key0 keyE : Option Config.SubKey) (w : Word) : Except DecodeReject Instr :=
  if fieldOp w = 0x0 then decodeFamily0 key0 w
  else if fieldOp w = 0x1 then .ok (.jp (fieldNNN w))
  else if fieldOp w = 0x2 then .ok (.call (fieldNNN w))
  else if fieldOp w = 0x3 then .ok (.seImm (fieldX w) (fieldNN w))
  else if fieldOp w = 0x4 then .ok (.sneImm (fieldX w) (fieldNN w))
  else if fieldOp w = 0x5 then .ok (.seReg (fieldX w) (fieldY w))
  else if fieldOp w = 0x6 then .ok (.ldImm (fieldX w) (fieldNN w))
  else if fieldOp w = 0x7 then .ok (.addImm (fieldX w) (fieldNN w))
  else if fieldOp w = 0x8 then .ok (decodeFamily8 w)
  else if fieldOp w = 0x9 then .ok (.sneReg (fieldX w) (fieldY w))
  else if fieldOp w = 0xA then .ok (.ldI (fieldNNN w))
  else if fieldOp w = 0xB then .ok (.jpV0 (fieldNNN w))
  else if fieldOp w = 0xC then .ok (.rnd (fieldX w) (fieldNN w))
  else if fieldOp w = 0xD then .ok (.drw (fieldX w) (fieldY w) (fieldN w))
  else if fieldOp w = 0xE then decodeFamilyE keyE w
  else .ok (decodeFamilyF w)

/-- The decoder of this model: both key widths as set above (log 10). -/
def decode (w : Word) : Except DecodeReject Instr := decodeWith subkey0 subkeyE w

/-- Two bytes as a big-endian word, the byte at the lower address the more significant (R62). -/
def bytesToWord (hi lo : Byte) : Word := (hi.setWidth 16 <<< 8) ||| lo.setWidth 16

/-- A word as the two bytes the hardware stores, the more significant first (R62). -/
def wordToBytes (w : Word) : List Byte := [w.extractLsb' 8 8, w.extractLsb' 0 8]

/-- The decoder on bytes: the first instruction and the bytes after it. -/
def decodeBytes : List Byte → Except DecodeReject (Instr × List Byte)
  | hi :: lo :: rest => (decode (bytesToWord hi lo)).map fun i => (i, rest)
  | _ => .error .truncated

/-- Format `A` (R92): op, `NNN`; concatenation is written with shifts (R7). -/
def formatA (op : Nibble) (nnn : Addr12) : Word := (op.setWidth 16 <<< 12) ||| nnn.setWidth 16
/-- Formats `XNN` and `XKK` (R92): op, `X`, and the literal or sub-opcode byte. -/
def formatXNN (op x : Nibble) (nn : Byte) : Word :=
  (op.setWidth 16 <<< 12) ||| (x.setWidth 16 <<< 8) ||| nn.setWidth 16
/-- Format `XYN` (R92): op, `X`, `Y`, and the sub-opcode or row count. -/
def formatXYN (op x y n : Nibble) : Word :=
  (op.setWidth 16 <<< 12) ||| (x.setWidth 16 <<< 8) ||| (y.setWidth 16 <<< 4) ||| n.setWidth 16

/-- The word of an instruction, from the opcode map R95, with zero in ignored bits (R100). `nop` has 12912 words; the
encoder writes the spec's own example of one, `0x8009` (R121; log 16). -/
def encode : Instr → Word
  | .cls => 0x00E0
  | .ret => 0x00EE
  | .jp nnn => formatA 0x1 nnn
  | .call nnn => formatA 0x2 nnn
  | .seImm x nn => formatXNN 0x3 x nn
  | .sneImm x nn => formatXNN 0x4 x nn
  | .seReg x y => formatXYN 0x5 x y 0
  | .sneReg x y => formatXYN 0x9 x y 0
  | .ldImm x nn => formatXNN 0x6 x nn
  | .addImm x nn => formatXNN 0x7 x nn
  | .ldReg x y => formatXYN 0x8 x y 0x0
  | .orReg x y => formatXYN 0x8 x y 0x1
  | .andReg x y => formatXYN 0x8 x y 0x2
  | .xorReg x y => formatXYN 0x8 x y 0x3
  | .addReg x y => formatXYN 0x8 x y 0x4
  | .sub x y => formatXYN 0x8 x y 0x5
  | .shr x => formatXYN 0x8 x 0 0x6
  | .subn x y => formatXYN 0x8 x y 0x7
  | .shl x => formatXYN 0x8 x 0 0xE
  | .ldI nnn => formatA 0xA nnn
  | .jpV0 nnn => formatA 0xB nnn
  | .rnd x nn => formatXNN 0xC x nn
  | .drw x y n => formatXYN 0xD x y n
  | .skp x => formatXNN 0xE x 0x9E
  | .sknp x => formatXNN 0xE x 0xA1
  | .ldVxDT x => formatXNN 0xF x 0x07
  | .ldDTVx x => formatXNN 0xF x 0x15
  | .ldSTVx x => formatXNN 0xF x 0x18
  | .ldVxK x => formatXNN 0xF x 0x0A
  | .addI x => formatXNN 0xF x 0x1E
  | .ldF x => formatXNN 0xF x 0x29
  | .ldB x => formatXNN 0xF x 0x33
  | .stBlock x => formatXNN 0xF x 0x55
  | .ldBlock x => formatXNN 0xF x 0x65
  | .nop => 0x8009

/-- The mask and match of an instruction's row of the opcode map (R95): a word `w` is certainly that instruction when
`w &&& mask = match`. The fallback row has mask and match 0. -/
def tableRow : Instr → Word × Word
  | .cls => (0xF0FF, 0x00E0)
  | .ret => (0xF0FF, 0x00EE)
  | .jp _ => (0xF000, 0x1000)
  | .call _ => (0xF000, 0x2000)
  | .seImm _ _ => (0xF000, 0x3000)
  | .sneImm _ _ => (0xF000, 0x4000)
  | .seReg _ _ => (0xF000, 0x5000)
  | .sneReg _ _ => (0xF000, 0x9000)
  | .ldImm _ _ => (0xF000, 0x6000)
  | .addImm _ _ => (0xF000, 0x7000)
  | .ldReg _ _ => (0xF00F, 0x8000)
  | .orReg _ _ => (0xF00F, 0x8001)
  | .andReg _ _ => (0xF00F, 0x8002)
  | .xorReg _ _ => (0xF00F, 0x8003)
  | .addReg _ _ => (0xF00F, 0x8004)
  | .sub _ _ => (0xF00F, 0x8005)
  | .shr _ => (0xF00F, 0x8006)
  | .subn _ _ => (0xF00F, 0x8007)
  | .shl _ => (0xF00F, 0x800E)
  | .ldI _ => (0xF000, 0xA000)
  | .jpV0 _ => (0xF000, 0xB000)
  | .rnd _ _ => (0xF000, 0xC000)
  | .drw _ _ _ => (0xF000, 0xD000)
  | .skp _ => (0xF0FF, 0xE09E)
  | .sknp _ => (0xF0FF, 0xE0A1)
  | .ldVxDT _ => (0xF0FF, 0xF007)
  | .ldDTVx _ => (0xF0FF, 0xF015)
  | .ldSTVx _ => (0xF0FF, 0xF018)
  | .ldVxK _ => (0xF0FF, 0xF00A)
  | .addI _ => (0xF0FF, 0xF01E)
  | .ldF _ => (0xF0FF, 0xF029)
  | .ldB _ => (0xF0FF, 0xF033)
  | .stBlock _ => (0xF0FF, 0xF055)
  | .ldBlock _ => (0xF0FF, 0xF065)
  | .nop => (0x0000, 0x0000)

/-- What this decoder reads from an instruction whose bits are `w`, numbered as the opcode table numbers them: the
word is stored big-endian (R62) and its bytes are decoded. A table row of fewer than 16 bits has zeros above. -/
def decodeTableWord (nbits w : Nat) : Option Instr :=
  match decodeBytes (wordToBytes (BitVec.ofNat 16 (w % 2 ^ nbits))) with
  | .ok (i, _) => some i
  | .error _ => none

end Sys2Proof
end

