-- ==== Sys2Proof/Machine/State.lean ====
section
/-! DEFINITION. The machine's state (spec/10_state.md R20 to R41), the reasons a step can stop, and the state after
reset. Plain data only. -/

namespace Sys2Proof.Machine

/-- Memory as (address, byte) pairs in one canonical form: addresses strictly rising and below `MEM_SIZE`, no entry
equal to what an unlisted address reads as (`Memory.wf`, Machine/Memory.lean). -/
abbrev Memory := List Host.Cell

/-- The framebuffer, `FB[x][y]`: 64 columns of 32 cells (R27, D27). -/
abbrev Framebuffer := Vector (Vector Bool Config.fbHeight) Config.fbWidth

/-- The six faults of R231, each with the info it records. -/
inductive FaultCause where
  /-- Code 1, `CALL` at `SP >= 15` (R125); records `SP`. -/
  | stackOverflow (sp : Byte)
  /-- Code 2, `RET` at `SP = 0` (R123); records nothing. -/
  | stackUnderflow
  /-- Code 3, the fetch at `pc > 0xFFE` (R72); records `pc`. -/
  | fetchOutOfRange (pc : Word)
  /-- Code 4, `DRW`, `LD B,Vx`, `LD [I],Vx`, `LD Vx,[I]` beyond `0xFFF` (R65); records the first offending address. -/
  | dataOutOfRange (address : Nat)
  /-- Code 5, `DRW` with a set bit off the grid (R173); records the column and the row. -/
  | displayOutOfRange (x y : Nat)
  /-- Code 6, `SKP`, `SKNP` with `V[X] > 15` (R190, R191); records `V[X]`. -/
  | keyIndexOutOfRange (value : Byte)
  deriving DecidableEq, Repr

/-- The fault record `FAULT` (R34, R231): the cause with its info, and the address of the faulting instruction. -/
structure FaultRecord where
  cause : FaultCause
  address : Word
  deriving DecidableEq, Repr

/-- Program metadata `PROG` (R32). -/
structure Program where
  name : String
  path : String
  size : Nat
  rate : Nat
  deriving DecidableEq, Repr

/-- The events that act on the machine from outside (R235). `now` is the instant, in microseconds, the environment
supplies to a pacer operation (R295). -/
inductive HostEvent where
  /-- `Load(image, name)` with the program's source path (R32, R281). -/
  | load (image : List Byte) (name path : String)
  /-- `Start` (R239). -/
  | start (now : Nat)
  /-- `Stop` (R240). -/
  | stop
  /-- `SingleStep` (R242). -/
  | singleStep
  /-- `CatchUp` (R296). -/
  | catchUp (now : Nat)
  /-- `ExecuteForDuration(ms)` (R297). -/
  | executeForDuration (now ms : Nat)
  /-- `SetKey(index, pressed)` (R243). -/
  | setKey (index : Nat) (pressed : Bool)
  /-- `ToggleBreakpoint` (R244). -/
  | toggleBreakpoint
  /-- `IncreaseSpeed` (R249). -/
  | increaseSpeed (now : Nat)
  /-- `DecreaseSpeed` (R250). -/
  | decreaseSpeed (now : Nat)
  /-- `TimerTick` (R246). -/
  | timerTick
  /-- `IsRunning` (R241), read only. -/
  | isRunning
  /-- `Snapshot` (R75), read only. -/
  | snapshot
  /-- `ExportMemoryImage` (R74), read only. -/
  | exportMemoryImage
  deriving DecidableEq, Repr

/-- The whole state. The last three fields are the model's own (logs 1, 6, 7). -/
structure State where
  /-- `V[0..15]` (R20, R21). -/
  v : Vector Byte Config.regCount
  /-- `I` (R22). -/
  idx : Word
  /-- `pc` (R23); between cycles the address of the next instruction to fetch. -/
  pc : Word
  /-- `SP`, how many return addresses are held (R24). -/
  sp : Byte
  /-- `STACK[0..15]` (R24). -/
  stack : Vector Word Config.stackSize
  /-- `DT`, the delay timer (R25). -/
  dt : Byte
  /-- `ST`, the sound timer (R25). -/
  st : Byte
  /-- `MEM` (R26, R61). -/
  mem : Memory
  /-- `FB` (R27). -/
  fb : Framebuffer
  /-- `KEY[0..15]`, true while pressed (R28). -/
  key : Vector Bool Config.keyCount
  /-- `RUN` (R29). -/
  run : Bool
  /-- `BP`, the breakpoint set, strictly rising (R30). -/
  bp : List Word
  /-- `DIS`, the disassembly listing (R31). -/
  dis : List String
  /-- `PROG` (R32). -/
  prog : Program
  /-- `LOADED` (R32, R40). -/
  loaded : Bool
  /-- `IPS`, the pacing rate (R33). -/
  ips : Nat
  /-- `T0`, the instant of the last pacing reset, in microseconds (R33). -/
  t0 : Nat
  /-- `EXEC`, the cycles `CatchUp` has executed since then (R33). -/
  executed : Nat
  /-- `FAULT` (R34). -/
  fault : Option FaultRecord
  /-- MODEL'S OWN: how many bytes `RND` has drawn (log 7). -/
  randDraws : Nat
  /-- MODEL'S OWN: how many unspecified pacer values have been drawn (logs 6, 11). -/
  openDraws : Nat
  /-- MODEL'S OWN: the events that come before the next free cycle, oldest first (log 1). -/
  inbox : List HostEvent
  deriving DecidableEq, Repr

/-- The stops that are no refusal. The six faults of R231 are NOT here: the machine takes them (R232), which is a next
state. -/
inductive Fault where
  /-- `RET` (R123) at `SP > 16` reads `STACK[SP - 1]`, an entry that does not exist; raised by `execRet` alone. No run
  reaches it, since `SP` stays in `[0,16)` (R24, R37). Safe: the model stops (log 8). -/
  | noSuchStackEntry (index : Nat)
  deriving DecidableEq, Repr

/-- What the model refuses: cases to which the spec gives no step. Each is safe: the model stops. -/
inductive Refusal where
  /-- An instruction that has no meaning yet; raised by a refused arm of `exec`. Safe. -/
  | notModelled (mnemonic : String)
  /-- `cycle` fetched a word whose meaning depends on a key width the spec leaves open (R97, D3; log 10). Safe. -/
  | ambiguousWord (w : Word)
  /-- `cycle`, `Start`, `SingleStep`, `CatchUp`, `ExecuteForDuration`, `ToggleBreakpoint` before the first load (R40,
  D20). Safe. -/
  | notLoaded
  /-- `cycle` on a machine whose fault record is set (R120, R34). Safe. -/
  | machineFaulted
  /-- `SetKey` with an index outside 0..15 (R243, D33). Safe. -/
  | keyIndexOutsideDomain (index : Nat)
  /-- `CatchUp` with `IPS` outside 1..1000000, whose division the spec leaves undefined (R296, D22). Safe. -/
  | pacerRateOutOfRange (ips : Nat)
  /-- `CatchUp` of a running machine at an instant before `T0`: R296 gives elapsed time as at least 0 (log 9). Safe. -/
  | clockBeforePacingReset (now t0 : Nat)
  deriving DecidableEq, Repr

/-- The outcome of a transition (R10). -/
abbrev Result := Host.Outcome State Fault Refusal

/-- The metadata of the program `State.reset` stands for: the empty image, no name, no path (log 2). -/
def Program.empty : Program := ⟨"", "", 0, Config.defaultIps⟩

/-- The state after reset: after a successful `Load` (R39, R281), here of the empty image (R280: `size = 0` is
accepted), with nothing placed in memory (log 2). `T0`, `EXEC` and the model's own counters are 0 (logs 5, 6, 7). -/
def State.reset : State where
  v := Vector.replicate Config.regCount 0
  idx := 0
  pc := BitVec.ofNat 16 Config.origin
  sp := 0
  stack := Vector.replicate Config.stackSize 0
  dt := 0
  st := 0
  mem := []
  fb := Vector.replicate Config.fbWidth (Vector.replicate Config.fbHeight false)
  key := Vector.replicate Config.keyCount false
  run := false
  bp := []
  dis := []
  prog := Program.empty
  loaded := true
  ips := Config.defaultIps
  t0 := 0
  executed := 0
  fault := none
  randDraws := 0
  openDraws := 0
  inbox := []

end Sys2Proof.Machine
end

