-- ==== Sys2Proof/Machine/Memory.lean ====
section
/-! DEFINITION. Memory (spec/20_memory.md R60 to R73): what an unlisted byte reads as, reading and writing one byte,
the canonical form, and sequences of bytes at ascending addresses. -/

namespace Sys2Proof.Machine

/-- The 80 font bytes, glyph `d` at `5*d`: the parameter `FONT` at the spec's default (R26, D25; log 3). -/
def font : List Byte :=
  [ 0xF0, 0x90, 0x90, 0x90, 0xF0,  0x20, 0x60, 0x20, 0x20, 0x70,
    0xF0, 0x10, 0xF0, 0x80, 0xF0,  0xF0, 0x10, 0xF0, 0x10, 0xF0 ] ++
  [ 0x90, 0x90, 0xF0, 0x10, 0x10,  0xF0, 0x80, 0xF0, 0x10, 0xF0,
    0xF0, 0x80, 0xF0, 0x90, 0xF0,  0xF0, 0x10, 0x20, 0x40, 0x40 ] ++
  [ 0xF0, 0x90, 0xF0, 0x90, 0xF0,  0xF0, 0x90, 0xF0, 0x10, 0xF0,
    0xF0, 0x90, 0xF0, 0x90, 0x90,  0xE0, 0x90, 0xE0, 0x90, 0xE0 ] ++
  [ 0xF0, 0x80, 0x80, 0x80, 0xF0,  0xE0, 0x90, 0x90, 0x90, 0xE0,
    0xF0, 0x80, 0xF0, 0x80, 0xF0,  0xF0, 0x80, 0xF0, 0x80, 0x80 ]

/-- What an unlisted address reads as: the reset contents, the font at 0 and zero elsewhere (R26, R39, R61; log 4). -/
def Memory.initial (a : Nat) : Byte := font.getD a 0

/-- The byte at `a` (R73). An address above `0xFFF` names no byte (R65); every caller checks the range first. -/
def Memory.read : Memory → Nat → Byte
  | [], a => Memory.initial a
  | (k, b) :: rest, a => if a = k then b else Memory.read rest a

/-- `m` with the byte at `a` set to `b`, in canonical form. -/
def Memory.put : Memory → Nat → Byte → Memory
  | [], a, b => if b = Memory.initial a then [] else [(a, b)]
  | (k, c) :: rest, a, b =>
    if a < k then (if b = Memory.initial a then (k, c) :: rest else (a, b) :: (k, c) :: rest)
    else if a = k then (if b = Memory.initial a then rest else (a, b) :: rest)
    else (k, c) :: Memory.put rest a b

/-- `MEM[a] <- b` (R73). An address above `0xFFF` names no byte (R65): nothing is stored there; every caller checks the
range first. -/
def Memory.write (m : Memory) (a : Nat) (b : Byte) : Memory :=
  if a < Config.memSize then Memory.put m a b else m

/-- The canonical form: addresses strictly rising and below `MEM_SIZE`, no entry equal to what its address reads as
unlisted. -/
def Memory.wf : Memory → Bool
  | [] => true
  | (k, b) :: rest =>
    decide (k < Config.memSize) && decide (b ≠ Memory.initial k) && rest.all (fun c => decide (k < c.1)) &&
      Memory.wf rest

/-- The `n` bytes at `a`, `a + 1`, … in ascending order (R63). -/
def Memory.readBytes (m : Memory) (a n : Nat) : List Byte :=
  (List.range n).map fun k => Memory.read m (a + k)

/-- The bytes stored at `a`, `a + 1`, … in ascending order (R63). -/
def Memory.writeBytes : Memory → Nat → List Byte → Memory
  | m, _, [] => m
  | m, a, b :: rest => Memory.writeBytes (Memory.write m a b) (a + 1) rest

/-- The big-endian word at `a` (R62). -/
def Memory.word (m : Memory) (a : Nat) : Word := bytesToWord (Memory.read m a) (Memory.read m (a + 1))

end Sys2Proof.Machine
end

