-- ==== Sys2Proof/Machine/Ops.lean ====
section
/-! DEFINITION. The named operations over registers, pointer, stack, fault record, framebuffer and breakpoint set.
A meaning is given the state at the START of its cycle: `pc` is the address `a` of the instruction (R120). It advances
the pointer itself (`State.advance`), so that a fault, which leaves everything else as it was before the cycle (R232),
is taken on the state the meaning was given. -/

namespace Sys2Proof.Machine

/-- `V[x]` (R20). -/
def State.getV (s : State) (x : Nibble) : Byte := s.v[x.toNat]'x.isLt

/-- `V[x] <- b` (R20). -/
def State.setV (s : State) (x : Nibble) (b : Byte) : State := { s with v := s.v.set x.toNat b x.isLt }

/-- `pc <- pc + 2`: the advance before execution, and again for a taken skip (R23, R120, R126). -/
def State.advance (s : State) : State := { s with pc := s.pc + 2 }

/-- `pc <- pc - 2`: back to the instruction itself (R195). -/
def State.rewind (s : State) : State := { s with pc := s.pc - 2 }

/-- `pc <- t` (R124). -/
def State.setPc (s : State) (t : Word) : State := { s with pc := t }

/-- `I <- w` (R22). -/
def State.setIdx (s : State) (w : Word) : State := { s with idx := w }

/-- `DT <- b` (R25). -/
def State.setDt (s : State) (b : Byte) : State := { s with dt := b }

/-- `ST <- b` (R25). -/
def State.setSt (s : State) (b : Byte) : State := { s with st := b }

/-- Memory replaced. -/
def State.setMem (s : State) (m : Memory) : State := { s with mem := m }

/-- The framebuffer replaced. -/
def State.setFb (s : State) (fb : Framebuffer) : State := { s with fb := fb }

/-- `STACK[SP] <- w`, then `SP <- SP + 1` (R24, R125, D6). -/
def State.push (s : State) (w : Word) : State :=
  { s with stack := s.stack.setIfInBounds s.sp.toNat w, sp := s.sp + 1 }

/-- `SP <- SP - 1` (R24, R123); a popped entry keeps its value (D7). -/
def State.dropTop (s : State) : State := { s with sp := s.sp - 1 }

/-- TAKING A FAULT (R232): nothing changes but `FAULT <- (code, a, info)` and `RUN <- false`; `a` is the pointer, since
`s` is the state before the cycle. There is no return from a fault: only `Load` clears the record (R234). -/
def State.takeFault (s : State) (c : FaultCause) : State :=
  { s with fault := some ⟨c, s.pc⟩, run := false }

/-- An instruction that faults: the next state is the one fault entry leaves (R232). -/
def State.raise (s : State) (c : FaultCause) : Result := .next (s.takeFault c)

/-- The code of a fault cause (R231). -/
def FaultCause.code : FaultCause → Nat
  | .stackOverflow _ => 1
  | .stackUnderflow => 2
  | .fetchOutOfRange _ => 3
  | .dataOutOfRange _ => 4
  | .displayOutOfRange _ _ => 5
  | .keyIndexOutOfRange _ => 6

/-- The info a fault records, as numbers (R231). -/
def FaultCause.info : FaultCause → List Nat
  | .stackOverflow sp => [sp.toNat]
  | .stackUnderflow => []
  | .fetchOutOfRange pc => [pc.toNat]
  | .dataOutOfRange a => [a]
  | .displayOutOfRange x y => [x, y]
  | .keyIndexOutOfRange v => [v.toNat]

/-- `FB[x][y]`; off the grid there is no cell, and every caller stays on it (R27, R173). -/
def Framebuffer.cell (fb : Framebuffer) (x y : Nat) : Bool :=
  if h : x < Config.fbWidth ∧ y < Config.fbHeight then fb[x][y] else false

/-- `FB[x][y] <- not FB[x][y]` (R27, R173); off the grid there is no cell to toggle. -/
def Framebuffer.toggle (fb : Framebuffer) (x y : Nat) : Framebuffer :=
  if h : x < Config.fbWidth ∧ y < Config.fbHeight then fb.set x (fb[x].set y (!fb[x][y])) else fb

/-- Every cell false (R122). -/
def Framebuffer.blank : Framebuffer := Vector.replicate Config.fbWidth (Vector.replicate Config.fbHeight false)

/-- The breakpoint set with `a` added, strictly rising (R30, R244). -/
def bpInsert (a : Word) : List Word → List Word
  | [] => [a]
  | b :: rest => if a < b then a :: b :: rest else if a = b then b :: rest else b :: bpInsert a rest

/-- The breakpoint set without `a` (R244). -/
def bpErase (a : Word) (l : List Word) : List Word := l.filter fun b => b != a

/-- A breakpoint set's one form: strictly rising. -/
def bpSorted : List Word → Bool
  | [] => true
  | a :: rest => rest.all (fun b => decide (a < b)) && bpSorted rest

/-- The state of an outcome that is a next state. -/
def nextState? : Result → Option State
  | .next s => some s
  | .fault _ => none
  | .refused _ => none

end Sys2Proof.Machine
end

