-- ==== Sys2Proof/Machine/Operands.lean ====
section
/-! DEFINITION. The operand forms: literals, the data range reached through `I`, the cells a sprite reaches, the keypad
line a register names, the decimal digits of a register. -/

namespace Sys2Proof.Machine

/-- `zext_16(NNN)` (R93). -/
def zextAddr (nnn : Addr12) : Word := nnn.setWidth 16

/-- `zext_16(b)` (R8, R93). -/
def zextByte (b : Byte) : Word := b.setWidth 16

/-- `if c then pc <- pc + 2` on the already advanced pointer (R126 to R129, R190, R191). -/
def State.skipIf (s : State) (c : Bool) : State := if c then s.advance else s

/-- The range check of an instruction that accesses the `count` bytes at `I`, `I + 1`, …, made before any access and on
natural numbers: the fault when the highest address is above `0xFFF`, with the first offending address (R65, R231). No
byte, no fault (R173 at `N = 0`). -/
def State.dataFault (s : State) (count : Nat) : Option FaultCause :=
  if 1 ≤ count ∧ s.idx.toNat + count - 1 > 0xFFF then some (.dataOutOfRange (max s.idx.toNat 0x1000)) else none

/-- The registers `V[0]`, …, `V[x]` in ascending order (R63, R213). -/
def State.regsTo (s : State) (x : Nibble) : List Byte := s.v.toList.take (x.toNat + 1)

/-- `V[i] <- MEM[I + i]` for `i` in `0..x`, registers above `x` unchanged (R214). -/
def State.loadRegsTo (s : State) (x : Nibble) : State :=
  { s with v := Vector.ofFn fun i => if i.val ≤ x.toNat then Memory.read s.mem (s.idx.toNat + i.val) else s.v[i] }

/-- The decimal digits of `v`, hundreds, tens, units (R212). -/
def decimalDigits (b : Byte) : List Byte :=
  [BitVec.ofNat 8 (b.toNat / 100), BitVec.ofNat 8 (b.toNat / 10 % 10), BitVec.ofNat 8 (b.toNat % 10)]

/-- The cells the set bits of one sprite row reach, column 0 first; bit 7 of the byte is column 0 (R173, D26). -/
def rowCells (row : Byte) (x0 y : Nat) : List (Nat × Nat) :=
  ((List.range 8).filter fun c => row.getLsbD (7 - c)).map fun c => (x0 + c, y)

/-- The cells the set bits of a sprite reach, row 0 first: natural numbers, not reduced (R173). -/
def spriteCells : List Byte → Nat → Nat → List (Nat × Nat)
  | [], _, _ => []
  | row :: rest, x0, y => rowCells row x0 y ++ spriteCells rest x0 (y + 1)

/-- The first cell off the 64 x 32 grid, in the order of the list (R173, R233). -/
def offGrid? (cells : List (Nat × Nat)) : Option (Nat × Nat) :=
  cells.find? fun p => decide (p.1 > 63) || decide (p.2 > 31)

/-- Toggle the cells one after the other; the flag becomes true when a cell goes from set to unset (R173). -/
def drawCells : List (Nat × Nat) → Framebuffer → Bool → Framebuffer × Bool
  | [], fb, hit => (fb, hit)
  | (x, y) :: rest, fb, hit => drawCells rest (fb.toggle x y) (hit || fb.cell x y)

/-- `KEY[k]` for `k` in `0..15`, none for another index (R28, R190). -/
def State.keyLine? (s : State) (k : Nat) : Option Bool := s.key[k]?

/-- The scan of `LD Vx,K`: ascending, so the last match wins; the highest pressed line (R195). -/
def State.lastKey (s : State) : Option Nat :=
  (List.range Config.keyCount).foldl (fun found k => if s.keyLine? k = some true then some k else found) none

end Sys2Proof.Machine
end

