-- ==== Sys2Proof/Machine/Flags.lean ====
section
/-! DEFINITION. The flag computations (spec/41_literal_alu.md R146 to R151, spec/44_index_memory.md R210) and the one
shape of a flag-writing operation: the flag is written first, and the result reads the registers as that write left
them (R151, `VF_OPERAND_POLICY = sequential`, D14; log 15). -/

namespace Sys2Proof.Machine

/-- `c ? 1 : 0` as a register value (R8). -/
def flagByte (c : Bool) : Byte := if c then 1 else 0

/-- Carry out of `a + b`: the natural-number sum exceeds 255 (R146). -/
def carryFlag (a b : Byte) : Byte := flagByte (decide (a.toNat + b.toNat > 255))

/-- No borrow in `a - b`: 0 when `b > a`, else 1 (R147, R149). -/
def noBorrowFlag (a b : Byte) : Byte := flagByte (!decide (b.toNat > a.toNat))

/-- The bit a right shift shifts out: `a & 1` (R148). -/
def shrFlag (a : Byte) : Byte := a &&& 1

/-- The bit a left shift shifts out: `a >> 7` (R150). -/
def shlFlag (a : Byte) : Byte := a >>> 7

/-- `I + b > 0xFFF`, on the natural-number sum (R210). -/
def indexFlag (i : Word) (b : Byte) : Byte := flagByte (decide (i.toNat + b.toNat > 0xFFF))

/-- `VF <- f` (R21). -/
def State.setFlag (s : State) (f : Byte) : State := s.setV 15 f

/-- A flag-writing operation of family 8: `VF <- f`, then `V[x] <- result` of the state after that (R146 to R151). -/
def State.flagThenResult (s : State) (f : Byte) (x : Nibble) (result : State → Byte) : State :=
  (s.setFlag f).setV x (result (s.setFlag f))

end Sys2Proof.Machine
end

