-- ==== Sys2Proof/Machine/Flow.lean ====
section
/-! DEFINITION. The meanings of spec/40_flow.md: the no-op, screen clear, return, jump, call and the four register
skips. Each takes the state at the start of its cycle (`pc` = `a`). -/

namespace Sys2Proof.Machine

/-- `NOP`, an unmapped word (R121): only the advance of the cycle. -/
def execNop (s : State) : Result := .next s.advance

/-- `CLS` (R122). -/
def execCls (s : State) : Result := .next (s.advance.setFb Framebuffer.blank)

/-- `RET` (R123). -/
def execRet (s : State) : Result :=
  if s.sp = 0 then s.raise .stackUnderflow
  else
    match s.stack[(s.sp - 1).toNat]? with
    | some w => .next (s.dropTop.setPc w)
    | none => .fault (.noSuchStackEntry (s.sp - 1).toNat)

/-- `JP NNN` (R124). -/
def execJp (nnn : Addr12) (s : State) : Result := .next (s.setPc (zextAddr nnn))

/-- `CALL NNN` (R125): pushes the advanced pointer. -/
def execCall (nnn : Addr12) (s : State) : Result :=
  if s.sp.toNat ≥ 15 then s.raise (.stackOverflow s.sp)
  else .next ((s.push s.advance.pc).setPc (zextAddr nnn))

/-- `SE Vx,NN` (R126). -/
def execSeImm (x : Nibble) (nn : Byte) (s : State) : Result := .next (s.advance.skipIf (s.getV x == nn))

/-- `SNE Vx,NN` (R127). -/
def execSneImm (x : Nibble) (nn : Byte) (s : State) : Result := .next (s.advance.skipIf (s.getV x != nn))

/-- `SE Vx,Vy` (R128). -/
def execSeReg (x y : Nibble) (s : State) : Result := .next (s.advance.skipIf (s.getV x == s.getV y))

/-- `SNE Vx,Vy` (R129). -/
def execSneReg (x y : Nibble) (s : State) : Result := .next (s.advance.skipIf (s.getV x != s.getV y))

end Sys2Proof.Machine
end

