-- ==== Sys2Proof/Machine/IndexDraw.lean ====
section
/-! DEFINITION. The meanings of spec/42_index_random_draw.md: index load, indexed jump, random, and the sprite draw with
collision detection. Each takes the state at the start of its cycle. -/

namespace Sys2Proof.Machine

/-- `LD I,NNN` (R170). -/
def execLdI (nnn : Addr12) (s : State) : Result := .next (s.advance.setIdx (zextAddr nnn))

/-- `JP V0,NNN` (R171): the 16-bit sum, not reduced to 12 bits. -/
def execJpV0 (nnn : Addr12) (s : State) : Result := .next (s.setPc (zextAddr nnn + zextByte (s.getV 0)))

/-- `RND Vx,NN` (R172): one draw of the free byte per execution (log 7). -/
def execRnd (x : Nibble) (nn : Byte) (s : State) : Result :=
  .next ({ s.advance with randDraws := s.randDraws + 1 }.setV x (nn &&& Config.randByte s.randDraws))

/-- The cells the sprite of `DRW Vx,Vy,N` reaches: its `n` rows at `I`, its corner at `(V[x], V[y])`, both read from the
registers as they are before the instruction (R173, D13). -/
def State.drwCells (s : State) (x y n : Nibble) : List (Nat × Nat) :=
  spriteCells (Memory.readBytes s.mem s.idx.toNat n.toNat) (s.getV x).toNat (s.getV y).toNat

/-- `DRW Vx,Vy,N` (R173): the data range first, then the grid, then the draw (R233). -/
def execDrw (x y n : Nibble) (s : State) : Result :=
  match s.dataFault n.toNat with
  | some c => s.raise c
  | none =>
    match offGrid? (s.drwCells x y n) with
    | some p => s.raise (.displayOutOfRange p.1 p.2)
    | none =>
      .next ((s.advance.setFlag (flagByte (drawCells (s.drwCells x y n) s.fb false).2)).setFb
        (drawCells (s.drwCells x y n) s.fb false).1)

end Sys2Proof.Machine
end

