-- ==== Sys2Proof/Machine/IndexMemory.lean ====
section
/-! DEFINITION. The meanings of spec/44_index_memory.md: index arithmetic, font address, decimal store and register
block moves. Each takes the state at the start of its cycle; `I` is never changed by a memory instruction. -/

namespace Sys2Proof.Machine

/-- `ADD I,Vx` (R210): the flag first, then `I` plus `V[x]` read again; wraps mod 65536 (D34). -/
def execAddI (x : Nibble) (s : State) : Result :=
  let t := s.advance.setFlag (indexFlag s.idx (s.getV x))
  .next (t.setIdx (t.idx + zextByte (t.getV x)))

/-- `LD F,Vx` (R211): the whole byte times `GLYPH_SIZE`. -/
def execLdF (x : Nibble) (s : State) : Result :=
  .next (s.advance.setIdx (zextByte (s.getV x) * BitVec.ofNat 16 Config.glyphSize))

/-- `LD B,Vx` (R212): three bytes, the range checked before the first. -/
def execLdB (x : Nibble) (s : State) : Result :=
  match s.dataFault 3 with
  | some c => s.raise c
  | none => .next (s.advance.setMem (Memory.writeBytes s.mem s.idx.toNat (decimalDigits (s.getV x))))

/-- `LD [I],Vx` (R213): `x + 1` bytes, the range checked before the first. -/
def execStBlock (x : Nibble) (s : State) : Result :=
  match s.dataFault (x.toNat + 1) with
  | some c => s.raise c
  | none => .next (s.advance.setMem (Memory.writeBytes s.mem s.idx.toNat (s.regsTo x)))

/-- `LD Vx,[I]` (R214): `x + 1` bytes, the range checked before the first. -/
def execLdBlock (x : Nibble) (s : State) : Result :=
  match s.dataFault (x.toNat + 1) with
  | some c => s.raise c
  | none => .next (s.advance.loadRegsTo x)

end Sys2Proof.Machine
end

