-- ==== Sys2Proof/Machine/KeyTimer.lean ====
section
/-! DEFINITION. The meanings of spec/43_key_timer.md: key skips, timer moves, wait-for-key. Each takes the state at the
start of its cycle. -/

namespace Sys2Proof.Machine

/-- `SKP Vx` (R190). -/
def execSkp (x : Nibble) (s : State) : Result :=
  match s.keyLine? (s.getV x).toNat with
  | some pressed => .next (s.advance.skipIf pressed)
  | none => s.raise (.keyIndexOutOfRange (s.getV x))

/-- `SKNP Vx` (R191). -/
def execSknp (x : Nibble) (s : State) : Result :=
  match s.keyLine? (s.getV x).toNat with
  | some pressed => .next (s.advance.skipIf (!pressed))
  | none => s.raise (.keyIndexOutOfRange (s.getV x))

/-- `LD Vx,DT` (R192). -/
def execLdVxDT (x : Nibble) (s : State) : Result := .next (s.advance.setV x s.dt)

/-- `LD DT,Vx` (R193). -/
def execLdDTVx (x : Nibble) (s : State) : Result := .next (s.advance.setDt (s.getV x))

/-- `LD ST,Vx` (R194). -/
def execLdSTVx (x : Nibble) (s : State) : Result := .next (s.advance.setSt (s.getV x))

/-- `LD Vx,K` (R195): the highest pressed key, or back to this instruction. -/
def execLdVxK (x : Nibble) (s : State) : Result :=
  match s.lastKey with
  | some k => .next (s.advance.setV x (BitVec.ofNat 8 k))
  | none => .next s.advance.rewind

end Sys2Proof.Machine
end

