-- ==== Sys2Proof/Machine/LiteralAlu.lean ====
section
/-! DEFINITION. The meanings of spec/41_literal_alu.md: literal moves and the register-to-register ALU. Each takes the
state at the start of its cycle. -/

namespace Sys2Proof.Machine

/-- `LD Vx,NN` (R140). -/
def execLdImm (x : Nibble) (nn : Byte) (s : State) : Result := .next (s.advance.setV x nn)

/-- `ADD Vx,NN` (R141): no flag. -/
def execAddImm (x : Nibble) (nn : Byte) (s : State) : Result := .next (s.advance.setV x (s.getV x + nn))

/-- `LD Vx,Vy` (R142). -/
def execLdReg (x y : Nibble) (s : State) : Result := .next (s.advance.setV x (s.getV y))

/-- `OR Vx,Vy` (R143): no flag. -/
def execOrReg (x y : Nibble) (s : State) : Result := .next (s.advance.setV x (s.getV x ||| s.getV y))

/-- `AND Vx,Vy` (R144): no flag. -/
def execAndReg (x y : Nibble) (s : State) : Result := .next (s.advance.setV x (s.getV x &&& s.getV y))

/-- `XOR Vx,Vy` (R145): no flag. -/
def execXorReg (x y : Nibble) (s : State) : Result := .next (s.advance.setV x (s.getV x ^^^ s.getV y))

/-- `ADD Vx,Vy` (R146). -/
def execAddReg (x y : Nibble) (s : State) : Result :=
  .next (s.advance.flagThenResult (carryFlag (s.getV x) (s.getV y)) x fun t => t.getV x + t.getV y)

/-- `SUB Vx,Vy` (R147). -/
def execSub (x y : Nibble) (s : State) : Result :=
  .next (s.advance.flagThenResult (noBorrowFlag (s.getV x) (s.getV y)) x fun t => t.getV x - t.getV y)

/-- `SHR Vx` (R148): on `V[x]` itself. -/
def execShr (x : Nibble) (s : State) : Result :=
  .next (s.advance.flagThenResult (shrFlag (s.getV x)) x fun t => t.getV x >>> 1)

/-- `SUBN Vx,Vy` (R149). -/
def execSubn (x y : Nibble) (s : State) : Result :=
  .next (s.advance.flagThenResult (noBorrowFlag (s.getV y) (s.getV x)) x fun t => t.getV y - t.getV x)

/-- `SHL Vx` (R150): on `V[x]` itself. -/
def execShl (x : Nibble) (s : State) : Result :=
  .next (s.advance.flagThenResult (shlFlag (s.getV x)) x fun t => t.getV x <<< 1)

end Sys2Proof.Machine
end

