-- ==== Sys2Proof/Machine/Cycle.lean ====
section
/-! DEFINITION. One instruction cycle (spec/40_flow.md R120): fetch (spec/20_memory.md R72), decode, execute, and the
breakpoint check (spec/60_exceptions.md R245). -/

namespace Sys2Proof.Machine

/-- `FetchWord(pc)` (R72): no word when `pc > 0xFFE`. -/
def State.fetchWord (s : State) : Option Word :=
  if s.pc.toNat > 0xFFE then none else some (Memory.word s.mem s.pc.toNat)

/-- The breakpoint check: the machine stops when the pointer the cycle left is a breakpoint (R245). -/
def State.checkBreakpoint (s : State) : State := if s.bp.contains s.pc then { s with run := false } else s

/-- The end of a cycle: the breakpoint check, which a cycle that faulted does not make (R120, R232). -/
def endCycle : Result → Result
  | .next t => .next (if t.fault.isSome then t else t.checkBreakpoint)
  | .fault r => .fault r
  | .refused r => .refused r

/-- Decode and execute a fetched word (R120). An ambiguous word is refused (R97). -/
def runWord (w : Word) (s : State) : Result :=
  match decode w with
  | .ok i => endCycle (exec i s)
  | .error _ => .refused (.ambiguousWord w)

/-- `Cycle` (R120). Its preconditions: a program is loaded (R40) and no fault is recorded (R34). A fetch out of range is
a fault taken like any other (R231 code 3, R232). -/
def cycle (s : State) : Result :=
  if s.loaded = false then .refused .notLoaded
  else if s.fault.isSome then .refused .machineFaulted
  else
    match s.fetchWord with
    | some w => runWord w s
    | none => s.raise (.fetchOutOfRange s.pc)

end Sys2Proof.Machine
end

