-- ==== Sys2Proof/Machine/Disasm.lean ====
section
/-! DEFINITION. The disassembler (spec/60_exceptions.md R254, spec/30_encoding.md R100 to R102): the configuration
function `Disasm(w, a)` at the spec's default text (D29, D36; log 14). -/

namespace Sys2Proof.Machine

/-- A hexadecimal digit in capitals. -/
def hexDigit (d : Nat) : Char := if d < 10 then Char.ofNat (48 + d) else Char.ofNat (55 + d)

/-- Two hexadecimal digits. -/
def hex2 (n : Nat) : String := String.ofList [hexDigit (n / 16 % 16), hexDigit (n % 16)]

/-- Three hexadecimal digits. -/
def hex3 (n : Nat) : String := String.ofList [hexDigit (n / 256 % 16), hexDigit (n / 16 % 16), hexDigit (n % 16)]

/-- A number 0..15 in decimal: the row count of `DRW` (R100). -/
def decimal15 (n : Nat) : String :=
  if n < 10 then String.ofList [hexDigit n] else String.ofList ['1', hexDigit (n - 10)]

/-- `V0`..`VF` (R100). -/
def regText (x : Nibble) : String := String.ofList ['V', hexDigit x.toNat]

/-- `0x` and two digits (R100). -/
def litText (nn : Byte) : String := "0x" ++ hex2 nn.toNat

/-- `0x` and three digits (R100). -/
def addrText (nnn : Addr12) : String := "0x" ++ hex3 nnn.toNat

/-- A mnemonic and its operands: one space, operands separated by a comma (R100). -/
def line2 (mnemonic first second : String) : String := mnemonic ++ " " ++ first ++ "," ++ second

/-- The text of an instruction (R95, R100); empty for the no-op (R102). -/
def instrText : Instr → String
  | .cls => "CLS"
  | .ret => "RET"
  | .jp nnn => "JP " ++ addrText nnn
  | .call nnn => "CALL " ++ addrText nnn
  | .seImm x nn => line2 "SE" (regText x) (litText nn)
  | .sneImm x nn => line2 "SNE" (regText x) (litText nn)
  | .seReg x y => line2 "SE" (regText x) (regText y)
  | .sneReg x y => line2 "SNE" (regText x) (regText y)
  | .ldImm x nn => line2 "LD" (regText x) (litText nn)
  | .addImm x nn => line2 "ADD" (regText x) (litText nn)
  | .ldReg x y => line2 "LD" (regText x) (regText y)
  | .orReg x y => line2 "OR" (regText x) (regText y)
  | .andReg x y => line2 "AND" (regText x) (regText y)
  | .xorReg x y => line2 "XOR" (regText x) (regText y)
  | .addReg x y => line2 "ADD" (regText x) (regText y)
  | .sub x y => line2 "SUB" (regText x) (regText y)
  | .shr x => "SHR " ++ regText x
  | .subn x y => line2 "SUBN" (regText x) (regText y)
  | .shl x => "SHL " ++ regText x
  | .ldI nnn => line2 "LD" "I" (addrText nnn)
  | .jpV0 nnn => line2 "JP" "V0" (addrText nnn)
  | .rnd x nn => line2 "RND" (regText x) (litText nn)
  | .drw x y n => line2 "DRW" (regText x) (regText y) ++ "," ++ decimal15 n.toNat
  | .skp x => "SKP " ++ regText x
  | .sknp x => "SKNP " ++ regText x
  | .ldVxDT x => line2 "LD" (regText x) "DT"
  | .ldDTVx x => line2 "LD" "DT" (regText x)
  | .ldSTVx x => line2 "LD" "ST" (regText x)
  | .ldVxK x => line2 "LD" (regText x) "K"
  | .addI x => line2 "ADD" "I" (regText x)
  | .ldF x => line2 "LD" "F" (regText x)
  | .ldB x => line2 "LD" "B" (regText x)
  | .stBlock x => line2 "LD" "[I]" (regText x)
  | .ldBlock x => line2 "LD" (regText x) "[I]"
  | .nop => ""

/-- The mnemonic part of a line. An ambiguous word's text depends on the key widths as its execution does (R102); while
they are open the listing reads the hardware's unknown widths (`Config.listingKey0`, `Config.listingKeyE`; log 14), so
that a program holding such a word can still be loaded. -/
def wordText (w : Word) : String :=
  match decodeWith (some (subkey0.getD Config.listingKey0)) (some (subkeyE.getD Config.listingKeyE)) w with
  | .ok i => instrText i
  | .error _ => ""

/-- `Disasm(w, a)`: the address as three hexadecimal digits, a colon, a space, and the word's text (R254). -/
def disasm (w a : Word) : String := hex3 a.toNat ++ ": " ++ wordText w

end Sys2Proof.Machine
end

