-- ==== Sys2Proof/Machine/HostOps.lean ====
section
/-! DEFINITION. The events that act on the machine from outside (spec/60_exceptions.md R235 to R254,
spec/70_reset_and_hazards.md R280 to R298) and the host's views (spec/20_memory.md R74, R75). -/

namespace Sys2Proof.Machine

/-- A load-time error of this block (R258, R280; `NotFound` and `InvalidFormat` never reach it, D38). -/
inductive LoadError where
  | tooLarge
  deriving DecidableEq, Repr

/-- The preferred rate of a program: the rate table's entry for its name, else 500 (R281). -/
def preferredRate (table : List (String × Nat)) (name : String) : Nat :=
  (table.lookup name).getD Config.defaultIps

/-- The listing of a loaded image of `size` bytes: one line per two-byte slot, `ceil(size/2)` of them (R31, R281,
D30). -/
def listing (m : Memory) (size : Nat) : List String :=
  (List.range ((size + 1) / 2)).map fun k =>
    disasm (Memory.word m (Config.origin + 2 * k)) (BitVec.ofNat 16 (Config.origin + 2 * k))

/-- The image copied to `0x200`, over the font and zeros (R76, R281). -/
def imageMemory (image : List Byte) : Memory := Memory.writeBytes [] Config.origin image

/-- The state a successful `Load` leaves, whatever state `s` it is given (R39, R281, R282). `T0` and `EXEC` are
unspecified (R33, R39): free values (log 6). The random source belongs to the environment (R35) and the events still to
come are not the block's, so `randDraws` and `inbox` stay. -/
def State.installed (s : State) (image : List Byte) (name path : String) : State :=
  { State.reset with
    mem := imageMemory image
    dis := listing (imageMemory image) image.length
    prog := ⟨name, path, image.length, preferredRate Config.rateTable name⟩
    ips := preferredRate Config.rateTable name
    t0 := Config.unspecifiedT0 s.openDraws
    executed := Config.unspecifiedExec s.openDraws
    randDraws := s.randDraws
    openDraws := s.openDraws + 1
    inbox := s.inbox }

/-- `Load(image, name)`: `TooLarge`, or the state it leaves (R280, R281). -/
def load (image : List Byte) (name path : String) (s : State) : Except LoadError State :=
  if image.length > Config.maxProg then .error .tooLarge else .ok (s.installed image name path)

/-- `Load` as an event: a failed one changes nothing (R41, R280). -/
def loadEvent (image : List Byte) (name path : String) (s : State) : Result :=
  match load image name path s with
  | .ok t => .next t
  | .error _ => .next s

/-- A pacing reset: `T0 <- now`, `EXEC <- 0` (R33, D21). -/
def State.pacingReset (s : State) (now : Nat) : State := { s with t0 := now, executed := 0 }

/-- `RUN <- b` (R29). -/
def State.setRun (s : State) (b : Bool) : State := { s with run := b }

/-- `Start` (R239). -/
def start (now : Nat) (s : State) : Result :=
  if s.loaded = false then .refused .notLoaded
  else if s.fault.isSome then .next s
  else .next ((s.setRun true).pacingReset now)

/-- `Stop` (R240). -/
def stop (s : State) : Result := .next (s.setRun false)

/-- `SingleStep` (R242): one cycle, whether or not the machine runs (D32); no effect on a faulted machine (D40). -/
def singleStep (s : State) : Result :=
  if s.loaded = false then .refused .notLoaded
  else if s.fault.isSome then .next s
  else cycle s

/-- `SetKey(k, b)` (R243). -/
def setKey (k : Nat) (pressed : Bool) (s : State) : Result :=
  if h : k < Config.keyCount then .next { s with key := s.key.set k pressed }
  else .refused (.keyIndexOutsideDomain k)

/-- `ToggleBreakpoint` (R244). -/
def toggleBreakpoint (s : State) : Result :=
  if s.loaded = false then .refused .notLoaded
  else if s.bp.contains s.pc then .next { s.setRun false with bp := bpErase s.pc s.bp }
  else .next { s.setRun false with bp := bpInsert s.pc s.bp }

/-- One countdown, holding at zero (R246, D16). -/
def countDown (b : Byte) : Byte := if b = 0 then 0 else b - 1

/-- `TimerTick` (R246). -/
def timerTick (s : State) : Result :=
  if s.run then .next { s with dt := countDown s.dt, st := countDown s.st } else .next s

/-- `IncreaseSpeed` (R249). -/
def increaseSpeed (now : Nat) (s : State) : Result :=
  .next ({ s with ips := s.ips + Config.speedStep }.pacingReset now)

/-- `DecreaseSpeed` (R250): integer subtraction, then the clamp. -/
def decreaseSpeed (now : Nat) (s : State) : Result :=
  .next ({ s with ips := max Config.speedMin (s.ips - Config.speedStep) }.pacingReset now)

/-- A driver's loop of at most `n` cycles that goes on while `go` holds and no fault is recorded; `count` is done after
each cycle that did not fault (R232, R296, R297). DESIGN CHOICE, log 20: the spec refuses a cycle that fetches an
ambiguous word (R97) and does not say what the call that drove it leaves; here the whole call stops with that cycle's
refusal (or fault), and no state comes of the cycles it executed before. Safe. -/
def driveLoop (go : State → Bool) (count : State → State) : Nat → State → Result
  | 0, s => .next s
  | n + 1, s =>
    if go s && s.fault.isNone then
      match cycle s with
      | .next t => if t.fault.isSome then .next t else driveLoop go count n (count t)
      | .fault r => .fault r
      | .refused r => .refused r
    else .next s

/-- `EXEC <- EXEC + 1` (R296). -/
def State.countExecuted (s : State) : State := { s with executed := s.executed + 1 }

/-- `owed` of R296: both divisions are floor divisions (D22). -/
def owedCycles (now : Nat) (s : State) : Nat := (now - s.t0) / (1000000 / s.ips)

/-- `CatchUp` (R296): `owed` is computed once, and each cycle that does not fault adds one to `EXEC`, so the loop
`while owed > EXEC and RUN` runs at most `owed - EXEC` times. -/
def catchUp (now : Nat) (s : State) : Result :=
  if s.loaded = false then .refused .notLoaded
  else if s.ips = 0 ∨ s.ips > 1000000 then .refused (.pacerRateOutOfRange s.ips)
  else if s.run ∧ now < s.t0 then .refused (.clockBeforePacingReset now s.t0)
  else driveLoop State.run State.countExecuted (owedCycles now s - s.executed) s

/-- The loop of `ExecuteForDuration` for a wall clock that leaves room for `n` cycles (R297): it honours `RUN` or not
as the open parameter says. -/
def warpLoop (honoursStop : Bool) (n : Nat) (s : State) : Result :=
  driveLoop (fun t => t.run || !honoursStop) (fun t => t) n s

/-- How many cycles that do not fault `warpLoop` executes: the count `ExecuteForDuration` returns (R297). -/
def warpCount (honoursStop : Bool) : Nat → State → Nat
  | 0, _ => 0
  | n + 1, s =>
    if (s.run || !honoursStop) && s.fault.isNone then
      match cycle s with
      | .next t => if t.fault.isSome then 0 else warpCount honoursStop n t + 1
      | .fault _ => 0
      | .refused _ => 0
    else 0

/-- The state `ExecuteForDuration` starts its loop in: the pacing clock reset, one free value drawn. -/
def State.warpStart (s : State) (now : Nat) : State :=
  { s with openDraws := s.openDraws + 1 }.pacingReset now

/-- `ExecuteForDuration(ms)` (R297): the number of cycles that fit is a free natural number (log 11). -/
def executeForDuration (now ms : Nat) (s : State) : Result :=
  if s.loaded = false then .refused .notLoaded
  else warpLoop Config.warpHonoursStop (Config.warpCycles s.openDraws ms) (s.warpStart now)

/-- The count `ExecuteForDuration(ms)` returns (R297). -/
def executeForDurationCount (now ms : Nat) (s : State) : Nat :=
  warpCount Config.warpHonoursStop (Config.warpCycles s.openDraws ms) (s.warpStart now)

/-- `IsRunning` (R241). -/
def isRunning (s : State) : Bool := s.run

/-- What `Snapshot` shows: the values R75 lists, and `RUN`, which R29 says `Snapshot` reads (log 21); not `KEY` or
`IPS`. -/
structure SnapshotView where
  v : Vector Byte Config.regCount
  idx : Word
  pc : Word
  sp : Byte
  stack : Vector Word Config.stackSize
  dt : Byte
  st : Byte
  mem : Memory
  fb : Framebuffer
  bp : List Word
  dis : List String
  prog : Program
  run : Bool
  deriving DecidableEq, Repr

/-- `Snapshot` (R29, R75). -/
def snapshot (s : State) : SnapshotView :=
  ⟨s.v, s.idx, s.pc, s.sp, s.stack, s.dt, s.st, s.mem, s.fb, s.bp, s.dis, s.prog, s.run⟩

/-- `ExportMemoryImage` (R74): the 4096 bytes. -/
def exportMemoryImage (s : State) : List Byte := Memory.readBytes s.mem 0 Config.memSize

/-- The listing entry that belongs to the pointer: `(pc - 0x200) / 2` for an even pointer within the listing (R31). -/
def listingIndex? (s : State) : Option Nat :=
  if s.pc.toNat % 2 = 0 ∧ Config.origin ≤ s.pc.toNat ∧ s.pc.toNat < Config.origin + 2 * s.dis.length then
    some ((s.pc.toNat - Config.origin) / 2)
  else none

/-- The transition of one event (R235); the three views change nothing. -/
def applyEvent : HostEvent → State → Result
  | .load image name path, s => loadEvent image name path s
  | .start now, s => start now s
  | .stop, s => stop s
  | .singleStep, s => singleStep s
  | .catchUp now, s => catchUp now s
  | .executeForDuration now ms, s => executeForDuration now ms s
  | .setKey k pressed, s => setKey k pressed s
  | .toggleBreakpoint, s => toggleBreakpoint s
  | .increaseSpeed now, s => increaseSpeed now s
  | .decreaseSpeed now, s => decreaseSpeed now s
  | .timerTick, s => timerTick s
  | .isRunning, s => .next s
  | .snapshot, s => .next s
  | .exportMemoryImage, s => .next s

/-- One transition (R11): the oldest event that is to come before the next free cycle, or one cycle (log 1). -/
def transition (s : State) : Result :=
  match s.inbox with
  | [] => cycle s
  | e :: rest => applyEvent e { s with inbox := rest }

end Sys2Proof.Machine
end

