-- ==== Sys2Proof/Machine/Step.lean ====
section
/-! DEFINITION. One step of the machine, and the placing of an instruction where the next step fetches it. -/

namespace Sys2Proof.Machine

/-- One step: the oldest waiting event, or one `Cycle` when none waits (R11, R120, R236; log 1). -/
def step (s : State) : Host.Outcome State Fault Refusal := transition s

/-- `s` with the instruction `w` stored, big-endian, at the pointer, and with what the very next step needs to fetch and
run it: a program loaded, no fault recorded, no event waiting (logs 1, 2). It stands for a load from outside. -/
def State.withFetchWord (s : State) (nbits w : Nat) : State :=
  { s with
    mem := Memory.writeBytes s.mem s.pc.toNat (wordToBytes (BitVec.ofNat 16 (w % 2 ^ nbits)))
    loaded := true
    fault := none
    inbox := [] }

end Sys2Proof.Machine
end

