-- ==== Sys2Proof/Safety.lean ====
section
/-! DEFINITION. The terms claims use: run states, the invariant every transition keeps, what a program can observe, and
which instruction may write what (read off the rules of spec/40 to 44 and spec/10_state.md R21). -/

namespace Sys2Proof.Machine

/-- The four run states of R238. -/
inductive RunState where
  | notLoaded
  | stopped
  | running
  | faulted
  deriving DecidableEq, Repr

/-- The run state of a machine (R238). -/
def State.runState (s : State) : RunState :=
  if s.loaded = false then .notLoaded
  else if s.fault.isSome then .faulted
  else if s.run then .running
  else .stopped

/-- The bounds the spec states for every run (R23, R24, R31, R34, R37, R238, R280), together with the model's own forms
of memory (log 22) and of the breakpoint set (log 18). -/
structure State.Inv (s : State) : Prop where
  /-- Memory is in its canonical form, the model's own (log 22). -/
  memory : Memory.wf s.mem = true
  /-- The breakpoint set, unordered in R30, is in the model's one form of it (log 18). -/
  breakpoints : bpSorted s.bp = true
  /-- The stack pointer is in `[0,16)` (R24, R37). -/
  stackPointer : s.sp.toNat < 16
  /-- The pointer is in `0..0x10FE` (R23). -/
  pointer : s.pc.toNat ≤ 0x10FE
  /-- Every stack entry is the address after a `CALL` that was fetched, or 0 (R24, R72, R125). -/
  returns : ∀ k : Fin 16, s.stack[k].toNat ≤ 0x1000
  /-- `STACK[15]` is never written (R24). -/
  lastEntry : s.stack[15] = 0
  /-- A running machine is loaded and not faulted (R34, R238). -/
  running : s.run = true → s.loaded = true ∧ s.fault = none
  /-- The listing has one line per two-byte slot of the program (R31). -/
  listed : s.dis.length = (s.prog.size + 1) / 2
  /-- The program fits (R280). -/
  fits : s.prog.size ≤ Config.maxProg

/-- What an instruction's effect depends on and what it can change (R255): not `RUN`, `BP`, `DIS`, `PROG`, `IPS`, `T0`,
`EXEC` and `LOADED`. -/
structure ProgramView where
  v : Vector Byte Config.regCount
  idx : Word
  pc : Word
  sp : Byte
  stack : Vector Word Config.stackSize
  dt : Byte
  st : Byte
  mem : Memory
  fb : Framebuffer
  key : Vector Bool Config.keyCount
  fault : Option FaultRecord
  randDraws : Nat
  deriving DecidableEq, Repr

/-- The part of a state a program deals with (R255). -/
def State.programView (s : State) : ProgramView :=
  ⟨s.v, s.idx, s.pc, s.sp, s.stack, s.dt, s.st, s.mem, s.fb, s.key, s.fault, s.randDraws⟩

/-- Two outcomes a program cannot tell apart: next states with one view, or one stop. -/
def SameToProgram : Result → Result → Prop
  | .next s, .next t => s.programView = t.programView
  | .fault r, .fault r' => r = r'
  | .refused r, .refused r' => r = r'
  | _, _ => False

/-- The outcome is a next state. -/
def Completes (o : Result) : Prop := ∃ t, o = .next t

/-- Fault entry (R232): the next state is `s` but for the record, with the address of the instruction, and `RUN`. -/
def TakesFault (s : State) (o : Result) (c : FaultCause) : Prop :=
  o = .next { s with fault := some ⟨c, s.pc⟩, run := false }

/-- `t` is what `n` cycles of a driver make of `s`: each starts unfaulted where `go` holds, answers a next state without
a fault, and `count` is done after it (R296, R297). -/
def CyclesTo (go : State → Bool) (count : State → State) : Nat → State → State → Prop
  | 0, s, t => t = s
  | n + 1, s, t =>
    s.fault = none ∧ go s = true ∧ ∃ u, cycle s = .next u ∧ u.fault = none ∧ CyclesTo go count n (count u) t

/-- `t` is what a driver leaves of `s` that executed `n` cycles without a fault and then ended, or ended with one more
cycle that took a fault and was not counted (R232, R296, R297). -/
def DriverLeaves (go : State → Bool) (count : State → State) (n : Nat) (s t : State) : Prop :=
  ∃ u, CyclesTo go count n s u ∧ (t = u ∨ (u.fault = none ∧ go u = true ∧ cycle u = .next t ∧ t.fault ≠ none))

/-- `t` is `s` with the number `n` in `V[x]`, the pointer advanced by 2, and nothing else changed. -/
def RegWritten (s t : State) (x : Nibble) (n : Nat) : Prop :=
  (∀ r, (t.getV r).toNat = if r = x then n else (s.getV r).toNat) ∧ t = { s with pc := s.pc + 2, v := t.v }

/-- Register `r` as a number, after the flag `f` has been written to `VF` (R151). -/
def State.afterFlag (s : State) (f : Nat) (r : Nibble) : Nat := if r = 15 then f else (s.getV r).toNat

/-- `t` is `s` after `VF <- f`, then `V[x] <- n`, with the pointer advanced by 2 and nothing else changed (R151). -/
def FlagThenReg (s t : State) (f : Nat) (x : Nibble) (n : Nat) : Prop :=
  (∀ r, (t.getV r).toNat = if r = x then n else s.afterFlag f r) ∧ t = { s with pc := s.pc + 2, v := t.v }

/-- Bit `7 - c` of sprite row `r` is set (R173). -/
def State.rowBit (s : State) (r c : Nat) : Prop := (Memory.read s.mem (s.idx.toNat + r)).getLsbD (7 - c) = true

/-- A set bit of the sprite of `DRW Vx,Vy,N` falls on the cell `p` (R173). -/
def State.spriteBit (s : State) (x y n : Nibble) (p : Nat × Nat) : Prop :=
  ∃ r < n.toNat, ∃ c < 8, s.rowBit r c ∧ p = ((s.getV x).toNat + c, (s.getV y).toNat + r)

/-- The seven instructions that write `VF` as a flag (R21). -/
def Instr.writesFlag : Instr → Bool
  | .addReg _ _ | .sub _ _ | .subn _ _ | .shr _ | .shl _ | .drw _ _ _ | .addI _ => true
  | _ => false

/-- The registers an instruction names as its destination: `V[X]`, or `V[0]..V[X]` for the block load (R140 to R150,
R172, R192, R195, R214). -/
def Instr.namesDest (r : Nibble) : Instr → Bool
  | .ldImm x _ | .addImm x _ | .rnd x _ => r == x
  | .ldReg x _ | .orReg x _ | .andReg x _ | .xorReg x _ | .addReg x _ | .sub x _ | .subn x _ => r == x
  | .shr x | .shl x | .ldVxDT x | .ldVxK x => r == x
  | .ldBlock x => decide (r ≤ x)
  | _ => false

/-- Does the instruction write register `r`: as its destination, or `VF` as its flag (R21)? -/
def Instr.writesReg (r : Nibble) (i : Instr) : Bool := Instr.namesDest r i || (Instr.writesFlag i && r == 15)

/-- The bytes a storing instruction stores: how many, from `I` on (R63, R212, R213); 0 for every other instruction. -/
def Instr.storedCount : Instr → Nat
  | .ldB _ => 3
  | .stBlock x => x.toNat + 1
  | _ => 0

/-- The instructions that write `I` (R22). -/
def Instr.writesIdx : Instr → Bool
  | .ldI _ | .addI _ | .ldF _ => true
  | _ => false

/-- The instructions that write the stack or its pointer (R24). -/
def Instr.usesStack : Instr → Bool
  | .call _ | .ret => true
  | _ => false

/-- The instructions that write the framebuffer (R27). -/
def Instr.writesFb : Instr → Bool
  | .cls | .drw _ _ _ => true
  | _ => false

/-- The instructions that replace the pointer, skip, or rewind it (R23); every other one advances it by 2. -/
def Instr.steersPc : Instr → Bool
  | .jp _ | .call _ | .ret | .jpV0 _ => true
  | .seImm _ _ | .sneImm _ _ | .seReg _ _ | .sneReg _ _ | .skp _ | .sknp _ | .ldVxK _ => true
  | _ => false

/-- The ambiguous words of R97. -/
def ambiguousWord (w : Word) : Prop :=
  (fieldOp w = 0x0 ∧ ((fieldN w = 0x0 ∧ fieldNN w ≠ 0xE0) ∨ (fieldN w = 0xE ∧ fieldNN w ≠ 0xEE))) ∨
  (fieldOp w = 0xE ∧ ((fieldN w = 0xE ∧ fieldNN w ≠ 0x9E) ∨ (fieldN w = 0x1 ∧ fieldNN w ≠ 0xA1)))

/-- The unmapped words of R96. -/
def unmappedWord (w : Word) : Prop :=
  (fieldOp w = 0x8 ∧ fieldN w ∈ [0x8, 0x9, 0xA, 0xB, 0xC, 0xD, 0xF]) ∨
  (fieldOp w = 0xF ∧ fieldNN w ∉ [0x07, 0x0A, 0x15, 0x18, 0x1E, 0x29, 0x33, 0x55, 0x65]) ∨
  (fieldOp w = 0x0 ∧ fieldN w ≠ 0x0 ∧ fieldN w ≠ 0xE) ∨
  (fieldOp w = 0xE ∧ fieldN w ≠ 0x1 ∧ fieldN w ≠ 0xE)

end Sys2Proof.Machine
end

