-- ==== Sys2Proof/Certificates/Slice0/Obligations.lean ====
section
/-! DEFINITION. The statements for the provers. Each docstring names the rules of spec/ it formalises; a clause that
rests on the model's own choice names the log entry. -/

open Sys2Proof Sys2Proof.Machine

/-! ### Encoding -/

/-- Decoding the encoding of any instruction gives it back, whatever the open key widths are (R95, R103). The word of
`nop` is the model's choice among its words (log 16). Rests on the spec's own decision D2. -/
def Obligations.DecodeOfEncode : Prop :=
  ∀ (key0 keyE : Option Config.SubKey) (i : Instr), i.wellFormed = true → decodeWith key0 keyE (encode i) = .ok i

/-- Words that spec/95_test_vectors.md uses (2.1 to 2.4) and the instructions they stand for, one or more of every
family; and two ambiguous words are refused by a decoder that leaves the key widths open (R97). Rests on the spec's
own decisions D2, D3, D4. -/
def Obligations.SpecWordsDecode : Prop :=
  decode 0x00E0 = .ok .cls ∧ decode 0x0FEE = .ok .ret ∧ decode 0x1ABC = .ok (.jp 0xABC) ∧
  decode 0x2ABC = .ok (.call 0xABC) ∧ decode 0x3001 = .ok (.seImm 0 0x01) ∧ decode 0x4307 = .ok (.sneImm 3 0x07) ∧
  decode 0x512F = .ok (.seReg 1 2) ∧ decode 0x6A05 = .ok (.ldImm 0xA 0x05) ∧ decode 0x7002 = .ok (.addImm 0 0x02) ∧
  decode 0x8124 = .ok (.addReg 1 2) ∧ decode 0x81F6 = .ok (.shr 1) ∧ decode 0x8128 = .ok .nop ∧
  decode 0x912F = .ok (.sneReg 1 2) ∧ decode 0xA300 = .ok (.ldI 0x300) ∧ decode 0xBABC = .ok (.jpV0 0xABC) ∧
  decode 0xC30F = .ok (.rnd 3 0x0F) ∧ decode 0xD125 = .ok (.drw 1 2 5) ∧ decode 0xE1A1 = .ok (.sknp 1) ∧
  decode 0xF10A = .ok (.ldVxK 1) ∧ decode 0xF165 = .ok (.ldBlock 1) ∧ decode 0xF1FF = .ok .nop ∧
  decodeWith none none 0x0000 = .error (.ambiguous 0x0000) ∧ decodeWith none none 0xE111 = .error (.ambiguous 0xE111)

/-- With both key widths open, exactly the words of R96 decode to the no-op, exactly those of R97 are refused, and a
refusal names the word; every other word decodes to one of the 34 instructions. Rests on the spec's own decision D3. -/
def Obligations.WordsPartition : Prop :=
  ∀ w : Word, (decodeWith none none w = .ok .nop ↔ unmappedWord w) ∧
    (decodeWith none none w = .error (.ambiguous w) ↔ ambiguousWord w) ∧
    (¬ambiguousWord w → ∃ i, decodeWith none none w = .ok i)

/-- With both key widths fixed, no word is refused: an ambiguous word is the instruction its low nibble names under a
nibble key and the no-op under a byte key, and every other word decodes as it does with the widths open (R97). Rests
on the spec's own decision D3. -/
def Obligations.FixedKeysDecodeEveryWord : Prop :=
  ∀ (k0 kE : Config.SubKey) (w : Word),
    (¬ambiguousWord w → decodeWith (some k0) (some kE) w = decodeWith none none w) ∧
    (ambiguousWord w → fieldOp w = 0x0 →
      decodeWith (some k0) (some kE) w = .ok (if k0 = .byte then .nop else if fieldN w = 0x0 then .cls else .ret)) ∧
    (ambiguousWord w → fieldOp w = 0xE →
      decodeWith (some k0) (some kE) w =
        .ok (if kE = .byte then .nop else if fieldN w = 0xE then .skp (fieldX w) else .sknp (fieldX w)))

/-- The ignored bits of R98: any value there decodes to the same instruction, whatever the open key widths are. Rests
on the spec's own decision D4. -/
def Obligations.IgnoredBitsAreNotChecked : Prop :=
  ∀ (key0 keyE : Option Config.SubKey) (x y n : Nibble),
    decodeWith key0 keyE (formatXYN 0x5 x y n) = .ok (.seReg x y) ∧
    decodeWith key0 keyE (formatXYN 0x9 x y n) = .ok (.sneReg x y) ∧
    decodeWith key0 keyE (formatXNN 0x0 x 0xE0) = .ok .cls ∧
    decodeWith key0 keyE (formatXNN 0x0 x 0xEE) = .ok .ret ∧
    decodeWith key0 keyE (formatXYN 0x8 x y 0x6) = .ok (.shr x) ∧
    decodeWith key0 keyE (formatXYN 0x8 x y 0xE) = .ok (.shl x)

/-- The assembler's words (R98, R100) are exactly the encodings of the 34 mapped instructions, and each of them
encodes what it decodes to. Rests on the spec's own decisions D2, D36. -/
def Obligations.CanonicalWordsRoundTrip : Prop :=
  (∀ i : Instr, i ≠ .nop → canonicalWord (encode i) = true) ∧
  ∀ (key0 keyE : Option Config.SubKey) (w : Word), canonicalWord w = true →
    ∃ i, decodeWith key0 keyE w = .ok i ∧ i ≠ .nop ∧ encode i = w

/-- A word that matches an instruction's row of the opcode map decodes to that row: the decoded instruction has the
row's mask and match (R95), for every mapped row. Rests on the spec's own decision D2. -/
def Obligations.MatchingWordDecodesToItsRow : Prop :=
  ∀ (key0 keyE : Option Config.SubKey) (i : Instr) (w : Word), i ≠ .nop → w &&& (tableRow i).1 = (tableRow i).2 →
    ∃ j, decodeWith key0 keyE w = .ok j ∧ tableRow j = tableRow i

/-! ### The step -/

/-- A step of a loaded, unfaulted machine with no event waiting, whose pointer is at most `0xFFE`, runs the instruction
the big-endian word at the pointer decodes to: it is `exec` of it, followed by the breakpoint check unless the
instruction faulted (R62, R72, R120, R245). The empty list of waiting events is the model's own (log 1). -/
def Obligations.StepRunsDecodedInstruction : Prop :=
  ∀ (s : State) (i : Instr), s.inbox = [] → s.loaded = true → s.fault = none → s.pc.toNat ≤ 0xFFE →
    decode (((Memory.read s.mem s.pc.toNat).setWidth 16 <<< 8) ||| (Memory.read s.mem (s.pc.toNat + 1)).setWidth 16) =
      .ok i →
    step s =
      match exec i s with
      | .next t => .next (if t.fault = none ∧ t.pc ∈ t.bp then { t with run := false } else t)
      | .fault r => .fault r
      | .refused r => .refused r

/-- A fetch with the pointer above `0xFFE` takes the fault `FetchOutOfRange` of the pointer (R72, R231, R232). Rests
on the spec's own decisions D8, D9. -/
def Obligations.FetchOutOfRangeFaults : Prop :=
  ∀ s : State, s.inbox = [] → s.loaded = true → s.fault = none → 0xFFE < s.pc.toNat →
    TakesFault s (step s) (.fetchOutOfRange s.pc)

/-- What a step with no event waiting refuses, and that it refuses nothing else: no program loaded (R40), a fault
recorded (R34, R120), an ambiguous word (R97). Rests on the spec's own decisions D3, D8, D20. -/
def Obligations.StepRefusesExactly : Prop :=
  ∀ (s : State) (r : Refusal), s.inbox = [] →
    (step s = .refused r ↔
      (s.loaded = false ∧ r = .notLoaded) ∨
      (s.loaded = true ∧ s.fault ≠ none ∧ r = .machineFaulted) ∨
      (s.loaded = true ∧ s.fault = none ∧ s.pc.toNat ≤ 0xFFE ∧
        ∃ e, decode (Memory.word s.mem s.pc.toNat) = .error e ∧ r = .ambiguousWord (Memory.word s.mem s.pc.toNat)))

/-- A waiting event is the next transition, and is then no longer waiting (R11, R236; the list is the model's own, log
1). -/
def Obligations.WaitingEventComesFirst : Prop :=
  ∀ (s : State) (e : HostEvent) (rest : List HostEvent), s.inbox = e :: rest →
    step s = applyEvent e { s with inbox := rest }

/-! ### Flow (spec/40_flow.md) -/

/-- R121: the no-op advances the pointer and changes nothing else. -/
def Obligations.NopOnlyAdvances : Prop :=
  ∀ s : State, exec .nop s = .next { s with pc := s.pc + 2 }

/-- R122: `CLS` makes every cell false and changes nothing else but the pointer. -/
def Obligations.ClsClearsEveryCell : Prop :=
  ∀ s : State, ∃ t, exec .cls s = .next t ∧ (∀ x y, Framebuffer.cell t.fb x y = false) ∧
    t = { s with pc := s.pc + 2, fb := t.fb }

/-- R123: `RET` faults at `SP = 0`; else it decrements `SP` and reads `STACK[SP]` into the pointer. Rests on the
spec's own decisions D5, D6. -/
def Obligations.RetPopsOrUnderflows : Prop :=
  ∀ s : State, (s.sp = 0 → TakesFault s (exec .ret s) .stackUnderflow) ∧
    ∀ k : Fin 16, s.sp.toNat = k.val + 1 → exec .ret s = .next { s with sp := s.sp - 1, pc := s.stack[k] }

/-- R124 and R171: the jumps replace the pointer by `NNN`, by `NNN + V0` not reduced, and change nothing else. -/
def Obligations.JumpsReplacePointer : Prop :=
  ∀ (s : State) (nnn : Addr12),
    (∃ t, exec (.jp nnn) s = .next t ∧ t.pc.toNat = nnn.toNat ∧ t = { s with pc := t.pc }) ∧
    (∃ t, exec (.jpV0 nnn) s = .next t ∧ t.pc.toNat = nnn.toNat + (s.getV 0).toNat ∧ t = { s with pc := t.pc })

/-- R125: `CALL` faults at `SP >= 15`; else it writes the address after it to `STACK[SP]`, increments `SP`, jumps, and
changes nothing else. Rests on the spec's own decisions D5, D6. -/
def Obligations.CallPushesOrOverflows : Prop :=
  ∀ (s : State) (nnn : Addr12), (15 ≤ s.sp.toNat → TakesFault s (exec (.call nnn) s) (.stackOverflow s.sp)) ∧
    (s.sp.toNat < 15 → ∃ t, exec (.call nnn) s = .next t ∧ t.pc.toNat = nnn.toNat ∧ t.sp.toNat = s.sp.toNat + 1 ∧
      (∀ k : Fin 16, t.stack[k] = if k.val = s.sp.toNat then s.pc + 2 else s.stack[k]) ∧
      t = { s with pc := t.pc, sp := t.sp, stack := t.stack })

/-- A `RET` right after a `CALL` that did not fault resumes at the instruction after the `CALL`, with `SP` as before
(R125, R123). Rests on the spec's own decisions D5, D6. -/
def Obligations.RetUndoesCall : Prop :=
  ∀ (s : State) (nnn : Addr12), s.sp.toNat < 15 →
    ∃ t, exec (.call nnn) s = .next t ∧ exec .ret t = .next { s with pc := s.pc + 2, stack := t.stack }

/-- R126 to R129: a skip adds 4 to the pointer in all when its condition holds, else 2, and changes nothing else. -/
def Obligations.SkipsOnCondition : Prop :=
  ∀ (s : State) (x y : Nibble) (nn : Byte),
    exec (.seImm x nn) s = .next { s with pc := if s.getV x = nn then s.pc + 4 else s.pc + 2 } ∧
    exec (.sneImm x nn) s = .next { s with pc := if s.getV x ≠ nn then s.pc + 4 else s.pc + 2 } ∧
    exec (.seReg x y) s = .next { s with pc := if s.getV x = s.getV y then s.pc + 4 else s.pc + 2 } ∧
    exec (.sneReg x y) s = .next { s with pc := if s.getV x ≠ s.getV y then s.pc + 4 else s.pc + 2 }

/-! ### Literal moves and the ALU (spec/41_literal_alu.md) -/

/-- R140, R141: a literal is loaded or added mod 256; no flag, nothing else changed. That the add writes no flag is an
inference R141 marks as the spec's own. -/
def Obligations.LiteralMoves : Prop :=
  ∀ (s : State) (x : Nibble) (nn : Byte),
    (∃ t, exec (.ldImm x nn) s = .next t ∧ RegWritten s t x nn.toNat) ∧
    (∃ t, exec (.addImm x nn) s = .next t ∧ RegWritten s t x (((s.getV x).toNat + nn.toNat) % 256))

/-- R142 to R145: copy, or, and, exclusive or write `V[X]` alone; `VF` keeps its value unless it is the destination. -/
def Obligations.CopyAndBitwise : Prop :=
  ∀ (s : State) (x y : Nibble),
    (∃ t, exec (.ldReg x y) s = .next t ∧ RegWritten s t x (s.getV y).toNat) ∧
    (∃ t, exec (.orReg x y) s = .next t ∧ RegWritten s t x ((s.getV x).toNat ||| (s.getV y).toNat)) ∧
    (∃ t, exec (.andReg x y) s = .next t ∧ RegWritten s t x ((s.getV x).toNat &&& (s.getV y).toNat)) ∧
    (∃ t, exec (.xorReg x y) s = .next t ∧ RegWritten s t x ((s.getV x).toNat ^^^ (s.getV y).toNat))

/-- R146, R147, R149: the flag from the values before, written first; the result from the registers after that. Rests
on the spec's own decision D14. -/
def Obligations.AddAndSubtract : Prop :=
  ∀ (s : State) (x y : Nibble),
    (∃ t f, exec (.addReg x y) s = .next t ∧ f = (if (s.getV x).toNat + (s.getV y).toNat > 255 then 1 else 0) ∧
      FlagThenReg s t f x ((s.afterFlag f x + s.afterFlag f y) % 256)) ∧
    (∃ t f, exec (.sub x y) s = .next t ∧ f = (if (s.getV y).toNat > (s.getV x).toNat then 0 else 1) ∧
      FlagThenReg s t f x ((s.afterFlag f x + 256 - s.afterFlag f y) % 256)) ∧
    (∃ t f, exec (.subn x y) s = .next t ∧ f = (if (s.getV x).toNat > (s.getV y).toNat then 0 else 1) ∧
      FlagThenReg s t f x ((s.afterFlag f y + 256 - s.afterFlag f x) % 256))

/-- R148, R150: the shifts move `V[X]` itself by one bit; `VF` is the bit shifted out, written first. Rests on the
spec's own decision D14. -/
def Obligations.Shifts : Prop :=
  ∀ (s : State) (x : Nibble),
    (∃ t f, exec (.shr x) s = .next t ∧ f = (s.getV x).toNat % 2 ∧ FlagThenReg s t f x (s.afterFlag f x / 2)) ∧
    (∃ t f, exec (.shl x) s = .next t ∧ f = (s.getV x).toNat / 128 ∧
      FlagThenReg s t f x (s.afterFlag f x * 2 % 256))

/-- The table of R151 for `X = 15` and `Y != 15`, and for `X = Y = 15`: the final `VF`. Rests on the spec's own
decision D14. -/
def Obligations.FlagAsOperand : Prop :=
  ∀ (s : State) (y : Nibble),
    (y ≠ 15 → (∃ t, exec (.addReg 15 y) s = .next t ∧ t.getV 15 = carryFlag (s.getV 15) (s.getV y) + s.getV y) ∧
      (∃ t, exec (.sub 15 y) s = .next t ∧ t.getV 15 = noBorrowFlag (s.getV 15) (s.getV y) - s.getV y) ∧
      (∃ t, exec (.subn 15 y) s = .next t ∧ t.getV 15 = s.getV y - noBorrowFlag (s.getV y) (s.getV 15))) ∧
    (∃ t, exec (.addReg 15 15) s = .next t ∧ t.getV 15 = 2 * carryFlag (s.getV 15) (s.getV 15)) ∧
    (∃ t, exec (.sub 15 15) s = .next t ∧ t.getV 15 = 0) ∧
    (∃ t, exec (.subn 15 15) s = .next t ∧ t.getV 15 = 0) ∧
    (∃ t, exec (.shr 15) s = .next t ∧ t.getV 15 = 0) ∧
    (∃ t, exec (.shl 15) s = .next t ∧ t.getV 15 = if (s.getV 15).toNat ≥ 128 then 2 else 0)

/-! ### Index, random, draw (spec/42_index_random_draw.md, spec/44_index_memory.md) -/

/-- R170, R211: `I` is the literal, or five times the whole byte; nothing else but the pointer changes. -/
def Obligations.IndexLoads : Prop :=
  ∀ (s : State) (x : Nibble) (nnn : Addr12),
    (∃ t, exec (.ldI nnn) s = .next t ∧ t.idx.toNat = nnn.toNat ∧ t = { s with pc := s.pc + 2, idx := t.idx }) ∧
    (∃ t, exec (.ldF x) s = .next t ∧ t.idx.toNat = (s.getV x).toNat * 5 ∧ t = { s with pc := s.pc + 2, idx := t.idx })

/-- R210: `VF` is written first, 1 when `I + V[X]` exceeds `0xFFF`; then `I` grows by `V[X]` read again, mod 65536.
Rests on the spec's own decisions D14, D34. -/
def Obligations.AddToIndex : Prop :=
  ∀ (s : State) (x : Nibble), ∃ t f, exec (.addI x) s = .next t ∧
    f = (if s.idx.toNat + (s.getV x).toNat > 0xFFF then 1 else 0) ∧
    (∀ r, (t.getV r).toNat = s.afterFlag f r) ∧ t.idx.toNat = (s.idx.toNat + s.afterFlag f x) % 65536 ∧
    t = { s with pc := s.pc + 2, idx := t.idx, v := t.v }

/-- R172: `V[X]` is the literal masked by one free byte, so it has no bit the literal lacks; one byte is drawn (the
count of draws is the model's own, log 7); nothing else changes. Rests on the spec's own decision D28. -/
def Obligations.RandomIsMasked : Prop :=
  ∀ (s : State) (x : Nibble) (nn : Byte), ∃ t, exec (.rnd x nn) s = .next t ∧
    t.getV x = nn &&& Config.randByte s.randDraws ∧ t.getV x &&& ~~~nn = 0 ∧ (nn = 0 → t.getV x = 0) ∧
    (nn = 0xFF → t.getV x = Config.randByte s.randDraws) ∧ (∀ r, r ≠ x → t.getV r = s.getV r) ∧
    t = { s with pc := s.pc + 2, v := t.v, randDraws := s.randDraws + 1 }

/-- R173: `DRW` faults when a row lies above `0xFFF`; else at the first set bit off the grid, in row-major order; else
it negates exactly the cells its set bits fall on, `VF` says whether one of them was set, and nothing else changes.
Rests on the spec's own decisions D10, D12, D13, D26, D27. -/
def Obligations.DrawSprite : Prop :=
  ∀ (s : State) (x y n : Nibble),
    (1 ≤ n.toNat → 0xFFF < s.idx.toNat + n.toNat - 1 →
      TakesFault s (exec (.drw x y n) s) (.dataOutOfRange (max s.idx.toNat 0x1000))) ∧
    ((n = 0 ∨ s.idx.toNat + n.toNat - 1 ≤ 0xFFF) →
      (∀ r c, r < n.toNat → c < 8 → s.rowBit r c → (63 < (s.getV x).toNat + c ∨ 31 < (s.getV y).toNat + r) →
        (∀ r' c', r' < n.toNat → c' < 8 → (r' < r ∨ (r' = r ∧ c' < c)) → s.rowBit r' c' →
          (s.getV x).toNat + c' ≤ 63 ∧ (s.getV y).toNat + r' ≤ 31) →
        TakesFault s (exec (.drw x y n) s) (.displayOutOfRange ((s.getV x).toNat + c) ((s.getV y).toNat + r))) ∧
      ((∀ p, s.spriteBit x y n p → p.1 ≤ 63 ∧ p.2 ≤ 31) →
        ∃ t, exec (.drw x y n) s = .next t ∧
          (∀ px py, (s.spriteBit x y n (px, py) → Framebuffer.cell t.fb px py = !Framebuffer.cell s.fb px py) ∧
            (¬s.spriteBit x y n (px, py) → Framebuffer.cell t.fb px py = Framebuffer.cell s.fb px py)) ∧
          (t.getV 15 = 0 ∨ t.getV 15 = 1) ∧
          (t.getV 15 = 1 ↔ ∃ p, s.spriteBit x y n p ∧ Framebuffer.cell s.fb p.1 p.2 = true) ∧
          (∀ r, r ≠ 15 → t.getV r = s.getV r) ∧ t = { s with pc := s.pc + 2, v := t.v, fb := t.fb }))

/-- R174 (a): the same draw twice, neither faulting, restores the framebuffer, and the second reports a collision
exactly when some set bit's cell was clear before the first. `X` and `Y` other than 15: with one of them 15 the
first draw's flag moves the second, so the two draws are not equal. Rests on the spec's own decision D13. -/
def Obligations.DrawTwiceRestores : Prop :=
  ∀ (s t : State) (x y n : Nibble), x ≠ 15 → y ≠ 15 → s.fault = none → exec (.drw x y n) s = .next t →
    t.fault = none →
    ∃ u, exec (.drw x y n) t = .next u ∧ u.fault = none ∧ u.fb = s.fb ∧
      (u.getV 15 = 1 ↔ ∃ p, s.spriteBit x y n p ∧ Framebuffer.cell s.fb p.1 p.2 = false)

/-! ### Keys and timers (spec/43_key_timer.md) -/

/-- R190, R191: the key skips read the line the whole byte `V[X]` names, and fault when it is above 15. Rests on the
spec's own decision D15. -/
def Obligations.KeySkips : Prop :=
  ∀ (s : State) (x : Nibble),
    (∀ k : Fin 16, (s.getV x).toNat = k.val →
      exec (.skp x) s = .next { s with pc := if s.key[k] = true then s.pc + 4 else s.pc + 2 } ∧
      exec (.sknp x) s = .next { s with pc := if s.key[k] = false then s.pc + 4 else s.pc + 2 }) ∧
    (15 < (s.getV x).toNat →
      TakesFault s (exec (.skp x) s) (.keyIndexOutOfRange (s.getV x)) ∧
      TakesFault s (exec (.sknp x) s) (.keyIndexOutOfRange (s.getV x)))

/-- R192 to R194: the timer moves. -/
def Obligations.TimerMoves : Prop :=
  ∀ (s : State) (x : Nibble),
    (∃ t, exec (.ldVxDT x) s = .next t ∧ RegWritten s t x s.dt.toNat) ∧
    exec (.ldDTVx x) s = .next { s with pc := s.pc + 2, dt := s.getV x } ∧
    exec (.ldSTVx x) s = .next { s with pc := s.pc + 2, st := s.getV x }

/-- R195: with a key down `V[X]` becomes the highest pressed index; with none nothing at all changes. -/
def Obligations.WaitForKey : Prop :=
  ∀ (s : State) (x : Nibble),
    (∀ k : Fin 16, s.key[k] = true → (∀ j : Fin 16, k < j → s.key[j] = false) →
      ∃ t, exec (.ldVxK x) s = .next t ∧ RegWritten s t x k.val) ∧
    ((∀ k : Fin 16, s.key[k] = false) → exec (.ldVxK x) s = .next s)

/-! ### Memory instructions (spec/44_index_memory.md). Memory is in its canonical form, which every step keeps. -/

/-- R212: the three decimal digits at `I`, `I + 1`, `I + 2`, every other byte as before; or the fault, when `I + 2` is
above `0xFFF`. Rests on the spec's own decision D10. -/
def Obligations.DecimalStore : Prop :=
  ∀ (s : State) (x : Nibble), Memory.wf s.mem = true →
    (0xFFF < s.idx.toNat + 2 → TakesFault s (exec (.ldB x) s) (.dataOutOfRange (max s.idx.toNat 0x1000))) ∧
    (s.idx.toNat + 2 ≤ 0xFFF → ∃ t, exec (.ldB x) s = .next t ∧
      (Memory.read t.mem s.idx.toNat).toNat = (s.getV x).toNat / 100 ∧
      (Memory.read t.mem (s.idx.toNat + 1)).toNat = (s.getV x).toNat / 10 % 10 ∧
      (Memory.read t.mem (s.idx.toNat + 2)).toNat = (s.getV x).toNat % 10 ∧
      (∀ a, ¬(s.idx.toNat ≤ a ∧ a ≤ s.idx.toNat + 2) → Memory.read t.mem a = Memory.read s.mem a) ∧
      t = { s with pc := s.pc + 2, mem := t.mem })

/-- R213: `V[0]..V[X]` at `I..I + X`, `I` and every other byte as before; or the fault, when `I + X` is above `0xFFF`.
Rests on the spec's own decision D10. -/
def Obligations.BlockStore : Prop :=
  ∀ (s : State) (x : Nibble), Memory.wf s.mem = true →
    (0xFFF < s.idx.toNat + x.toNat →
      TakesFault s (exec (.stBlock x) s) (.dataOutOfRange (max s.idx.toNat 0x1000))) ∧
    (s.idx.toNat + x.toNat ≤ 0xFFF → ∃ t, exec (.stBlock x) s = .next t ∧
      (∀ r : Nibble, r ≤ x → Memory.read t.mem (s.idx.toNat + r.toNat) = s.getV r) ∧
      (∀ a, ¬(s.idx.toNat ≤ a ∧ a ≤ s.idx.toNat + x.toNat) → Memory.read t.mem a = Memory.read s.mem a) ∧
      t = { s with pc := s.pc + 2, mem := t.mem })

/-- R214: `MEM[I..I + X]` into `V[0]..V[X]`, `I`, memory and the registers above `X` as before; or the fault, when `I
+ X` is above `0xFFF`. Rests on the spec's own decision D10. -/
def Obligations.BlockLoad : Prop :=
  ∀ (s : State) (x : Nibble),
    (0xFFF < s.idx.toNat + x.toNat →
      TakesFault s (exec (.ldBlock x) s) (.dataOutOfRange (max s.idx.toNat 0x1000))) ∧
    (s.idx.toNat + x.toNat ≤ 0xFFF → ∃ t, exec (.ldBlock x) s = .next t ∧
      (∀ r : Nibble, r ≤ x → t.getV r = Memory.read s.mem (s.idx.toNat + r.toNat)) ∧
      (∀ r : Nibble, x < r → t.getV r = s.getV r) ∧ t = { s with pc := s.pc + 2, v := t.v })

/-! ### All instructions -/

/-- Every instruction answers a next state: none is refused, and none stops while `SP` is at most 16 (R99, R120,
R232); `SP` stays below 16 in every run (R24). Above that, `RET` alone stops: the stack has no such entry (the model's
own stop, log 8). Rests on the spec's own decision D8. -/
def Obligations.EveryInstructionAnswersNext : Prop :=
  ∀ (i : Instr) (s : State), (s.sp.toNat ≤ 16 ∨ i ≠ .ret → Completes (exec i s)) ∧
    (16 < s.sp.toNat → i = .ret → exec i s = .fault (.noSuchStackEntry (s.sp.toNat - 1)))

/-- THE FRAME of every instruction: what it leaves unchanged when it answers a next state. Registers but its
destination and, for the seven of R21, `VF`; every byte of memory but the bytes it stores, which start at `I` (R212,
R213); `I`, the stack, the framebuffer, the timers but where its rule writes them; the keypad, the debug and pacing
state and the events always; the fault record and `RUN` but where it faults. Rests on the spec's own decision D8. -/
def Obligations.InstructionFrame : Prop :=
  ∀ (i : Instr) (s t : State), Memory.wf s.mem = true → exec i s = .next t →
    (∀ r, Instr.writesReg r i = false → t.getV r = s.getV r) ∧
    (∀ a, ¬(s.idx.toNat ≤ a ∧ a < s.idx.toNat + Instr.storedCount i) → Memory.read t.mem a = Memory.read s.mem a) ∧
    (Instr.writesIdx i = false → t.idx = s.idx) ∧ (Instr.usesStack i = false → t.sp = s.sp ∧ t.stack = s.stack) ∧
    (i = .ret → t.stack = s.stack) ∧ (Instr.writesFb i = false → t.fb = s.fb) ∧
    ((∀ x, i ≠ .ldDTVx x) → t.dt = s.dt) ∧ ((∀ x, i ≠ .ldSTVx x) → t.st = s.st) ∧
    ((∀ x nn, i ≠ .rnd x nn) → t.randDraws = s.randDraws) ∧
    t.key = s.key ∧ t.bp = s.bp ∧ t.dis = s.dis ∧ t.prog = s.prog ∧ t.loaded = s.loaded ∧ t.ips = s.ips ∧
    t.t0 = s.t0 ∧ t.executed = s.executed ∧ t.openDraws = s.openDraws ∧ t.inbox = s.inbox ∧
    (t.fault = s.fault ∧ t.run = s.run ∨ t.fault ≠ none ∧ t.run = false)

/-- R23: an instruction that does not fault advances the pointer by 2, unless it is a jump, call or return, a skip
(2 or 4), or a wait for a key (2, or back to itself). -/
def Obligations.PointerAdvances : Prop :=
  ∀ (i : Instr) (s t : State), s.fault = none → exec i s = .next t → t.fault = none →
    (Instr.steersPc i = false → t.pc = s.pc + 2) ∧
    ((∃ x, i = .ldVxK x) → t.pc = s.pc + 2 ∨ t.pc = s.pc) ∧
    (((∃ x nn, i = .seImm x nn ∨ i = .sneImm x nn) ∨ (∃ x y, i = .seReg x y ∨ i = .sneReg x y) ∨
      (∃ x, i = .skp x ∨ i = .sknp x)) → t.pc = s.pc + 2 ∨ t.pc = s.pc + 4)

/-- R21: the flag the seven instructions write is 0 or 1, where `VF` is not the destination as well. -/
def Obligations.FlagIsZeroOrOne : Prop :=
  ∀ (i : Instr) (s t : State), s.fault = none → Instr.writesFlag i = true → Instr.namesDest 15 i = false →
    exec i s = .next t → t.fault = none → t.getV 15 = 0 ∨ t.getV 15 = 1

/-- R231: which instruction raises which fault, under what condition, and the info it records. Rests on the spec's
own decisions D5, D8, D10, D12, D15. -/
def Obligations.FaultTable : Prop :=
  ∀ (i : Instr) (s t : State) (r : FaultRecord), s.fault = none → exec i s = .next t → t.fault = some r →
    match r.cause with
    | .stackOverflow sp => (∃ nnn, i = .call nnn) ∧ 15 ≤ s.sp.toNat ∧ sp = s.sp
    | .stackUnderflow => i = .ret ∧ s.sp = 0
    | .fetchOutOfRange _ => False
    | .dataOutOfRange a => a = max s.idx.toNat 0x1000 ∧
        ((∃ x, i = .ldB x ∧ 0xFFF < s.idx.toNat + 2) ∨
          (∃ x, (i = .stBlock x ∨ i = .ldBlock x) ∧ 0xFFF < s.idx.toNat + x.toNat) ∨
          (∃ x y n, i = .drw x y n ∧ 1 ≤ n.toNat ∧ 0xFFF < s.idx.toNat + n.toNat - 1))
    | .displayOutOfRange px py => (63 < px ∨ 31 < py) ∧ ∃ x y n, i = .drw x y n ∧ s.spriteBit x y n (px, py)
    | .keyIndexOutOfRange v => (∃ x, (i = .skp x ∨ i = .sknp x) ∧ v = s.getV x) ∧ 15 < v.toNat

/-- R232: a cycle that faults changes nothing but the record, whose address is the pointer's, and `RUN`; the
breakpoint check is not made. Rests on the spec's own decision D8. -/
def Obligations.FaultsArePrecise : Prop :=
  ∀ (s t : State) (r : FaultRecord), s.inbox = [] → s.fault = none → step s = .next t → t.fault = some r →
    r.address = s.pc ∧ t = { s with fault := some r, run := false }

/-- R255: no cycle depends on `RUN`, `BP`, `DIS`, `PROG`, `IPS`, `T0`, `EXEC`: two loaded machines that agree on what a
program deals with make steps it cannot tell apart. What they must agree on takes in the model's own draw counter
`randDraws`, so that both draw the same free byte (log 7); the empty list of waiting events is the model's own too (log
1). -/
def Obligations.DebugStateIsInvisible : Prop :=
  ∀ s t : State, s.inbox = [] → t.inbox = [] → s.loaded = t.loaded → s.programView = t.programView →
    SameToProgram (step s) (step t)

/-- R299: a cycle whose word is a jump to its own address changes nothing but, where that address is a breakpoint,
`RUN`. -/
def Obligations.JumpToSelfIsAnEnd : Prop :=
  ∀ (s : State) (nnn : Addr12), s.inbox = [] → s.loaded = true → s.fault = none → s.pc.toNat = nnn.toNat →
    s.pc.toNat ≤ 0xFFE → decode (Memory.word s.mem s.pc.toNat) = .ok (.jp nnn) →
    step s = .next { s with run := s.run && !decide (s.pc ∈ s.bp) }

/-! ### Reset and load (spec/70_reset_and_hazards.md) -/

/-- The values R39 gives for reset, at `State.reset`, all but `T0` and `EXEC`, which R39 leaves unspecified (log 5).
That reset is the load of the empty image (its listing empty, its size 0, its rate the default) is the model's
choice (log 2). Rests on the spec's own decisions D8, D18, D19, D25. -/
def Obligations.ResetValues : Prop :=
  (∀ r, State.reset.getV r = 0) ∧ State.reset.idx = 0 ∧ State.reset.pc = 0x200 ∧ State.reset.sp = 0 ∧
  (∀ k : Fin 16, State.reset.stack[k] = 0) ∧ State.reset.dt = 0 ∧ State.reset.st = 0 ∧
  (∀ a, a < 80 → Memory.read State.reset.mem a = font.getD a 0) ∧
  (∀ a, 80 ≤ a → a < 4096 → Memory.read State.reset.mem a = 0) ∧
  (∀ x y, Framebuffer.cell State.reset.fb x y = false) ∧ (∀ k : Fin 16, State.reset.key[k] = false) ∧
  State.reset.bp = [] ∧ State.reset.run = false ∧ State.reset.loaded = true ∧ State.reset.fault = none ∧
  State.reset.dis = [] ∧ State.reset.prog.size = 0 ∧ State.reset.prog.rate = State.reset.ips ∧ State.reset.ips = 500

/-- R280, R281: what a successful `Load` leaves, from any state: registers, timers, stack, display, keypad,
breakpoints cleared, the pointer at `0x200`, the font and the image in memory and zeros elsewhere, the listing of the
image, the program's rate; stopped, unfaulted, loaded. Rests on the spec's own decisions D8, D18, D19, D25, D30, D37.
-/
def Obligations.LoadInstallsProgram : Prop :=
  ∀ (s : State) (image : List Byte) (name path : String), image.length ≤ 3584 →
    ∃ t, applyEvent (.load image name path) s = .next t ∧
      (∀ r, t.getV r = 0) ∧ t.idx = 0 ∧ t.pc = 0x200 ∧ t.sp = 0 ∧ (∀ k : Fin 16, t.stack[k] = 0) ∧ t.dt = 0 ∧
      t.st = 0 ∧
      (∀ a, a < 4096 → Memory.read t.mem a =
        if 0x200 ≤ a ∧ a < 0x200 + image.length then image.getD (a - 0x200) 0 else font.getD a 0) ∧
      (∀ x y, Framebuffer.cell t.fb x y = false) ∧ (∀ k : Fin 16, t.key[k] = false) ∧ t.bp = [] ∧ t.run = false ∧
      t.fault = none ∧ t.loaded = true ∧ t.dis.length = (image.length + 1) / 2 ∧
      (∀ k, k < (image.length + 1) / 2 → t.dis[k]? =
        some (disasm (Memory.word t.mem (0x200 + 2 * k)) (BitVec.ofNat 16 (0x200 + 2 * k)))) ∧
      t.prog = ⟨name, path, image.length, t.ips⟩ ∧ t.ips = (Config.rateTable.lookup name).getD 500

/-- R280, R41: an image of more than 3584 bytes is `TooLarge`, and nothing changes. -/
def Obligations.TooLargeChangesNothing : Prop :=
  ∀ (s : State) (image : List Byte) (name path : String), 3584 < image.length →
    load image name path s = .error .tooLarge ∧ applyEvent (.load image name path) s = .next s

/-! ### Host control, breakpoints, timers, pacer (spec/60_exceptions.md, spec/70_reset_and_hazards.md) -/

/-- R239, R240: `Start` sets `RUN` and makes a pacing reset, has no effect on a faulted machine, and is refused before
a load; `Stop` clears `RUN`. Rests on the spec's own decisions D20, D21, D40. -/
def Obligations.StartAndStop : Prop :=
  ∀ (s : State) (now : Nat),
    (s.loaded = true → s.fault = none →
      applyEvent (.start now) s = .next { s with run := true, t0 := now, executed := 0 }) ∧
    (s.loaded = true → s.fault ≠ none → applyEvent (.start now) s = .next s) ∧
    (s.loaded = false → applyEvent (.start now) s = .refused .notLoaded) ∧
    applyEvent .stop s = .next { s with run := false }

/-- R242: `SingleStep` is one cycle, on a running machine as on a stopped one, whatever events wait (with none
waiting it is what a step is); no effect on a faulted one; refused before a load. Rests on the spec's own decisions
D20, D32, D40. -/
def Obligations.SingleStepIsOneCycle : Prop :=
  ∀ s : State,
    (s.loaded = true → s.fault = none → applyEvent .singleStep s = cycle s) ∧
    (s.loaded = true → s.fault = none → s.inbox = [] → applyEvent .singleStep s = step s) ∧
    (s.loaded = true → s.fault ≠ none → applyEvent .singleStep s = .next s) ∧
    (s.loaded = false → applyEvent .singleStep s = .refused .notLoaded)

/-- R243: `SetKey` writes one line and nothing else; an index outside 0..15 is refused. Rests on the spec's own
decision D33. -/
def Obligations.SetKeyWritesOneLine : Prop :=
  ∀ (s : State) (k : Nat) (b : Bool),
    (k < 16 → ∃ t, applyEvent (.setKey k b) s = .next t ∧
      (∀ j : Fin 16, t.key[j] = if j.val = k then b else s.key[j]) ∧ t = { s with key := t.key }) ∧
    (16 ≤ k → applyEvent (.setKey k b) s = .refused (.keyIndexOutsideDomain k))

/-- R244: `ToggleBreakpoint` stops the machine, adds the pointer to the set if absent and else removes it, and changes
no other member; doing it twice gives the set back. Rests on the spec's own decisions D20, D39. -/
def Obligations.ToggleTwiceRestoresBreakpoints : Prop :=
  ∀ s : State, s.loaded = true → bpSorted s.bp = true →
    ∃ t, applyEvent .toggleBreakpoint s = .next t ∧ t = { s with run := false, bp := t.bp } ∧
      (s.pc ∈ t.bp ↔ s.pc ∉ s.bp) ∧ (∀ a, a ≠ s.pc → (a ∈ t.bp ↔ a ∈ s.bp)) ∧
      applyEvent .toggleBreakpoint t = .next { s with run := false }

/-- R246: a tick decrements each timer that is not zero, while the machine runs, and changes nothing else. Rests on
the spec's own decisions D16, D17. -/
def Obligations.TickCountsDownWhileRunning : Prop :=
  ∀ s : State,
    (s.run = true → ∃ t, applyEvent .timerTick s = .next t ∧ t.dt.toNat = s.dt.toNat - 1 ∧
      t.st.toNat = s.st.toNat - 1 ∧ t = { s with dt := t.dt, st := t.st }) ∧
    (s.run = false → applyEvent .timerTick s = .next s)

/-- R249, R250: the speed operations change the rate by one step, clamped to the minimum, and make a pacing reset.
Step and minimum are open parameters (log 13). Rests on the spec's own decisions D21, D23. -/
def Obligations.SpeedChangesResetThePacer : Prop :=
  ∀ (s : State) (now : Nat),
    applyEvent (.increaseSpeed now) s =
      .next { s with ips := s.ips + Config.speedStep, t0 := now, executed := 0 } ∧
    (∃ t, applyEvent (.decreaseSpeed now) s = .next t ∧ 1 ≤ t.ips ∧ Config.speedMin ≤ t.ips ∧
      (Config.speedMin + Config.speedStep ≤ s.ips → t.ips + Config.speedStep = s.ips) ∧
      (s.ips < Config.speedMin + Config.speedStep → t.ips = Config.speedMin) ∧
      t = { s with ips := t.ips, t0 := now, executed := 0 })

/-- R296: what `CatchUp` that completes leaves is reached by cycles and nothing else, one for each that `EXEC` grew
by, each begun with `RUN` true, and at most one more, which faulted; it goes on until `EXEC` is `owed`, never
beyond, unless the machine stopped or faulted; with nothing owed, `EXEC` above `owed` too, or on a stopped machine,
it changes nothing. A call one of whose cycles is refused does not complete: the model's own choice (log 20). Rests
on the spec's own decisions D21, D22. -/
def Obligations.CatchUpExecutesWhatIsOwed : Prop :=
  ∀ (s t : State) (now owed : Nat), s.loaded = true → s.fault = none → owed = (now - s.t0) / (1000000 / s.ips) →
    applyEvent (.catchUp now) s = .next t →
    (∃ n, t.executed = s.executed + n ∧ DriverLeaves State.run State.countExecuted n s t) ∧
    t.executed ≤ max s.executed owed ∧ t.t0 = s.t0 ∧ t.ips = s.ips ∧
    (t.run = true → t.executed = max s.executed owed) ∧ (owed ≤ s.executed → t = s) ∧ (s.run = false → t = s)

/-- R296: `CatchUp` is refused before a load and for a rate outside 1..1000000; that the rate is checked on a stopped
machine too is the model's own reading (log 9). The source's example: at 500 instructions per second, 4000 microseconds
after the pacing reset, two cycles are owed. Rests on the spec's own decisions D20, D22. -/
def Obligations.CatchUpRefusalsAndExample : Prop :=
  (∀ (s : State) (now : Nat), s.loaded = false → applyEvent (.catchUp now) s = .refused .notLoaded) ∧
  (∀ (s : State) (now : Nat), s.loaded = true → (s.ips = 0 ∨ 1000000 < s.ips) →
    applyEvent (.catchUp now) s = .refused (.pacerRateOutOfRange s.ips)) ∧
  (∀ s : State, s.ips = 500 → owedCycles (s.t0 + 4000) s = 2)

/-- R297: `ExecuteForDuration` that completes leaves the pacing clock reset, and what it leaves is reached by as many
cycles as it counts, and at most one more, which faulted. For either setting of `WARP_HONOURS_STOP` and whatever
number `n` of cycles fits, its loop counts at most `n`, and fewer only where a fault or, honouring a stop, a stop
ended it. Honouring a stop it executes nothing on a stopped machine; not honouring one it does not look at `RUN`:
another value of `RUN` changes neither the count nor anything of the state but `RUN`. It is refused before a load. The
free number is log 11; a call one of whose cycles is refused does not complete, the model's own choice (log 20). Rests
on the spec's own decisions D20, D31. -/
def Obligations.WarpResetsThePacer : Prop :=
  (∀ (s t : State) (now ms : Nat), applyEvent (.executeForDuration now ms) s = .next t →
    t.t0 = now ∧ t.executed = 0 ∧ t.ips = s.ips ∧
    DriverLeaves (fun u => u.run || !Config.warpHonoursStop) (fun u => u) (executeForDurationCount now ms s)
      { s with t0 := now, executed := 0, openDraws := s.openDraws + 1 } t) ∧
  (∀ (b : Bool) (n : Nat) (s t : State), warpLoop b n s = .next t →
    DriverLeaves (fun u => u.run || !b) (fun u => u) (warpCount b n s) s t ∧ warpCount b n s ≤ n ∧
    (t.fault = none → (t.run = true ∨ b = false) → warpCount b n s = n)) ∧
  (∀ (s : State) (n : Nat), s.run = false → warpLoop true n s = .next s ∧ warpCount true n s = 0) ∧
  (∀ (s : State) (n : Nat) (r : Bool), warpCount false n { s with run := r } = warpCount false n s ∧
    ∀ t, warpLoop false n s = .next t → ∃ r', warpLoop false n { s with run := r } = .next { t with run := r' }) ∧
  (∀ (s : State) (now ms : Nat), s.loaded = false →
    applyEvent (.executeForDuration now ms) s = .refused .notLoaded)

/-- R234: on a faulted machine no event but `Load` changes what a program deals with, the fault record among it, but
for the keypad, and none makes it run. Rests on the spec's own decisions D8, D40. -/
def Obligations.OnlyLoadLeavesAFault : Prop :=
  ∀ (s t : State) (e : HostEvent), s.loaded = true → s.fault ≠ none → s.run = false → applyEvent e s = .next t →
    (∀ image name path, e ≠ .load image name path) →
    t.programView = { s.programView with key := t.key } ∧ t.run = false

/-- R251: only `SingleStep`, `CatchUp`, `ExecuteForDuration` and `Load` change registers, `I`, the pointer, the stack,
memory or the framebuffer. -/
def Obligations.OtherEventsLeaveProgramState : Prop :=
  ∀ (s t : State) (e : HostEvent), applyEvent e s = .next t → e ≠ .singleStep → (∀ now, e ≠ .catchUp now) →
    (∀ now ms, e ≠ .executeForDuration now ms) → (∀ image name path, e ≠ .load image name path) →
    t.v = s.v ∧ t.idx = s.idx ∧ t.pc = s.pc ∧ t.sp = s.sp ∧ t.stack = s.stack ∧ t.mem = s.mem ∧ t.fb = s.fb

/-- R254, R102: the mnemonic part of a line is empty exactly when the word decodes to the no-op. Rests on the spec's
own decisions D29, D36. -/
def Obligations.EmptyMnemonicMeansUnmapped : Prop :=
  ∀ w : Word, ¬ambiguousWord w → (wordText w = "" ↔ decodeWith none none w = .ok .nop)

/-- R241, R74, R75: the three views change nothing at all. `IsRunning` gives `RUN`; the exported image has 4096 bytes,
byte `a` being the memory byte at `a`; the snapshot shows the values R75 lists, and `RUN`, which R29 says it reads (log
21). -/
def Obligations.ViewsShowAndChangeNothing : Prop :=
  ∀ s : State,
    (applyEvent .isRunning s = .next s ∧ applyEvent .snapshot s = .next s ∧
      applyEvent .exportMemoryImage s = .next s) ∧
    isRunning s = s.run ∧ (exportMemoryImage s).length = 4096 ∧
    (∀ a, a < 4096 → (exportMemoryImage s)[a]? = some (Memory.read s.mem a)) ∧
    snapshot s = { v := s.v, idx := s.idx, pc := s.pc, sp := s.sp, stack := s.stack, dt := s.dt, st := s.st,
                   mem := s.mem, fb := s.fb, bp := s.bp, dis := s.dis, prog := s.prog, run := s.run }

/-! ### The invariant -/

/-- The invariant holds at `State.reset`, the model's choice of a reset (log 2): the bounds of R24, R37 and R39, and
the model's own forms of memory (log 22) and of the breakpoint set (log 18). -/
def Obligations.ResetMeetsInvariant : Prop := State.reset.Inv

/-- Every step, whatever event it performs, keeps the invariant: memory in its canonical form and the breakpoint set
strictly rising, both the model's own forms (logs 22, 18); `SP` in `[0,16)`; the pointer in `0..0x10FE`; every stack
entry at most `0x1000`, `STACK[15]` never written; a running machine loaded and unfaulted; the program at most 3584
bytes, the listing as long as the program (R23, R24, R31, R34, R37, R72, R125, R238, R280). -/
def Obligations.StepKeepsInvariant : Prop :=
  ∀ s t : State, s.Inv → step s = .next t → t.Inv
end

