-- ==== Sys2Proof/Laws/Decode.lean ====
section
/-! SUPPORT. The fields of the encoder's formats (spec/30_encoding.md R91, R92), bytes and words (spec/20_memory.md
R62), and what an open dispatch key can answer (R97). -/

namespace Sys2Proof

@[simp] theorem fieldOp_formatA (op : Nibble) (nnn : Addr12) : fieldOp (formatA op nnn) = op := by
  ext i h
  simp only [fieldOp, formatA, BitVec.getElem_extractLsb']
  interval_cases i <;> simp

@[simp] theorem fieldNNN_formatA (op : Nibble) (nnn : Addr12) : fieldNNN (formatA op nnn) = nnn := by
  ext i h
  simp only [fieldNNN, formatA, BitVec.getElem_extractLsb']
  interval_cases i <;> simp

@[simp] theorem fieldOp_formatXNN (op x : Nibble) (nn : Byte) : fieldOp (formatXNN op x nn) = op := by
  ext i h
  simp only [fieldOp, formatXNN, BitVec.getElem_extractLsb']
  interval_cases i <;> simp

@[simp] theorem fieldX_formatXNN (op x : Nibble) (nn : Byte) : fieldX (formatXNN op x nn) = x := by
  ext i h
  simp only [fieldX, formatXNN, BitVec.getElem_extractLsb']
  interval_cases i <;> simp

@[simp] theorem fieldNN_formatXNN (op x : Nibble) (nn : Byte) : fieldNN (formatXNN op x nn) = nn := by
  ext i h
  simp only [fieldNN, formatXNN, BitVec.getElem_extractLsb']
  interval_cases i <;> simp

@[simp] theorem fieldOp_formatXYN (op x y n : Nibble) : fieldOp (formatXYN op x y n) = op := by
  ext i h
  simp only [fieldOp, formatXYN, BitVec.getElem_extractLsb']
  interval_cases i <;> simp

@[simp] theorem fieldX_formatXYN (op x y n : Nibble) : fieldX (formatXYN op x y n) = x := by
  ext i h
  simp only [fieldX, formatXYN, BitVec.getElem_extractLsb']
  interval_cases i <;> simp

@[simp] theorem fieldY_formatXYN (op x y n : Nibble) : fieldY (formatXYN op x y n) = y := by
  ext i h
  simp only [fieldY, formatXYN, BitVec.getElem_extractLsb']
  interval_cases i <;> simp

@[simp] theorem fieldN_formatXYN (op x y n : Nibble) : fieldN (formatXYN op x y n) = n := by
  ext i h
  simp only [fieldN, formatXYN, BitVec.getElem_extractLsb']
  interval_cases i <;> simp

/-- The low byte of a word is its `Y` and `N` fields (R91). -/
theorem fieldNN_eq_iff (w : Word) (y n : Nibble) :
    fieldNN w = (y.setWidth 8 <<< 4) ||| n.setWidth 8 ↔ fieldY w = y ∧ fieldN w = n := by
  constructor
  · intro h
    constructor <;> ext i hi
    · have := congrArg (fun b : Byte => b.getLsbD (4 + i)) h
      simp only [fieldNN, fieldY, BitVec.getElem_extractLsb', BitVec.getLsbD_extractLsb'] at this ⊢
      interval_cases i <;> simpa using this
    · have := congrArg (fun b : Byte => b.getLsbD i) h
      simp only [fieldNN, fieldN, BitVec.getElem_extractLsb', BitVec.getLsbD_extractLsb'] at this ⊢
      interval_cases i <;> simpa using this
  · rintro ⟨rfl, rfl⟩
    ext i hi
    simp only [fieldNN, fieldY, fieldN, BitVec.getElem_extractLsb']
    interval_cases i <;> simp

/-- A word stored big-endian and read back (R62). -/
theorem bytesToWord_extract (w : Word) : bytesToWord (w.extractLsb' 8 8) (w.extractLsb' 0 8) = w := by
  ext i h
  simp only [bytesToWord, BitVec.getElem_or]
  interval_cases i <;> simp

/-- An open key gives the instruction, the no-op, or the ambiguity (R97). -/
theorem decodeOpen_cases (key : Option Config.SubKey) (w : Word) (i : Instr) :
    (key = some .nibble ∧ decodeOpen key w i = .ok i) ∨ (key = some .byte ∧ decodeOpen key w i = .ok .nop) ∨
      (key = none ∧ decodeOpen key w i = .error (.ambiguous w)) := by
  cases key with
  | none => exact .inr (.inr ⟨rfl, rfl⟩)
  | some k => cases k <;> simp [decodeOpen]

end Sys2Proof
end

