-- ==== Sys2Proof/Laws/Memory.lean ====
section
/-! SUPPORT. The laws of memory: a read after a write, the canonical form is kept by every memory operation, and what
a sequence of bytes stores (spec/20_memory.md R63, R66, R73). -/

namespace Sys2Proof.Machine

theorem Memory.wf_nil : Memory.wf [] = true := rfl

/-- What the canonical form of a nonempty memory says. -/
theorem Memory.wf_cons (k : Nat) (b : Byte) (m : Memory) :
    Memory.wf ((k, b) :: m) = true ↔
      k < 4096 ∧ b ≠ Memory.initial k ∧ (∀ c ∈ m, k < c.1) ∧ Memory.wf m = true := by
  simp only [Memory.wf, Bool.and_eq_true, decide_eq_true_eq, List.all_eq_true, and_assoc]

/-- An address below every listed one reads as unlisted. -/
theorem Memory.read_below (m : Memory) (a : Nat) (h : ∀ c ∈ m, a < c.1) : Memory.read m a = Memory.initial a := by
  induction m with
  | nil => rfl
  | cons c m ih =>
    obtain ⟨k, b⟩ := c
    have hk : a < k := h (k, b) (by simp)
    rw [Memory.read, if_neg (by omega)]
    exact ih fun c hc => h c (by simp [hc])

/-- Reading after putting, in canonical memory: the byte put at its address, every other byte as before. -/
theorem Memory.read_put (m : Memory) (a a' : Nat) (b : Byte) (h : Memory.wf m = true) :
    Memory.read (Memory.put m a b) a' = if a' = a then b else Memory.read m a' := by
  induction m with
  | nil =>
    by_cases hb : b = Memory.initial a <;> by_cases ha : a' = a <;> simp [Memory.put, Memory.read, hb, ha]
  | cons c m ih =>
    obtain ⟨k, c⟩ := c
    obtain ⟨-, -, hlt, hm⟩ := (Memory.wf_cons k c m).1 h
    simp only [Memory.put]
    split
    next hak =>
      have hbelow : Memory.read ((k, c) :: m) a = Memory.initial a := by
        refine Memory.read_below _ _ fun d hd => ?_
        rcases List.mem_cons.1 hd with rfl | hd
        · exact hak
        · exact lt_trans hak (hlt d hd)
      by_cases hb : b = Memory.initial a
      · rw [if_pos hb]
        by_cases ha : a' = a
        · rw [if_pos ha, ha, hbelow, hb]
        · rw [if_neg ha]
      · rw [if_neg hb, Memory.read]
    next hak =>
      split
      next hk =>
        subst hk
        by_cases hb : b = Memory.initial a
        · rw [if_pos hb]
          by_cases ha : a' = a
          · rw [if_pos ha, ha, Memory.read_below m a hlt, hb]
          · rw [if_neg ha, Memory.read, if_neg ha]
        · rw [if_neg hb]
          by_cases ha : a' = a <;> simp [Memory.read, ha]
      next hk =>
        rw [Memory.read, Memory.read, ih hm]
        by_cases ha : a' = k
        · rw [if_pos ha, if_neg (by omega), if_pos ha]
        · rw [if_neg ha, if_neg ha]

/-- The addresses listed after putting are those listed before and the one put. -/
theorem Memory.mem_put (m : Memory) (a : Nat) (b : Byte) (c : Host.Cell) (h : c ∈ Memory.put m a b) :
    c = (a, b) ∨ c ∈ m := by
  induction m with
  | nil =>
    simp only [Memory.put] at h
    split at h <;> simp_all
  | cons d m ih =>
    obtain ⟨k, d⟩ := d
    simp only [Memory.put] at h
    split at h
    · split at h
      · exact .inr h
      · exact (List.mem_cons.1 h)
    · split at h
      · split at h
        · exact .inr (by simp [h])
        · rcases List.mem_cons.1 h with h | h
          · exact .inl h
          · exact .inr (by simp [h])
      · rcases List.mem_cons.1 h with h | h
        · exact .inr (by simp [h])
        · exact (ih h).imp id fun h => by simp [h]

/-- Putting a byte of memory keeps the canonical form. -/
theorem Memory.wf_put (m : Memory) (a : Nat) (b : Byte) (ha : a < 4096) (h : Memory.wf m = true) :
    Memory.wf (Memory.put m a b) = true := by
  induction m with
  | nil =>
    by_cases hb : b = Memory.initial a
    · simp [Memory.put, hb, Memory.wf]
    · rw [Memory.put, if_neg hb]
      exact (Memory.wf_cons _ _ _).2 ⟨ha, hb, by simp, rfl⟩
  | cons c m ih =>
    obtain ⟨k, c⟩ := c
    obtain ⟨hk, hc, hlt, hm⟩ := (Memory.wf_cons k c m).1 h
    simp only [Memory.put]
    split
    next hak =>
      split
      next => exact h
      next hb =>
        refine (Memory.wf_cons _ _ _).2 ⟨ha, hb, fun d hd => ?_, h⟩
        rcases List.mem_cons.1 hd with rfl | hd
        · exact hak
        · exact lt_trans hak (hlt d hd)
    next hak =>
      split
      next hk' =>
        subst hk'
        split
        next => exact hm
        next hb => exact (Memory.wf_cons _ _ _).2 ⟨ha, hb, hlt, hm⟩
      next hk' =>
        refine (Memory.wf_cons _ _ _).2 ⟨hk, hc, fun d hd => ?_, ih hm⟩
        rcases Memory.mem_put m a b d hd with rfl | hd
        · show k < a
          omega
        · exact hlt d hd

/-- A read after a write: the byte written at its address, every other byte as before (R66, R73). -/
theorem Memory.read_write (m : Memory) (a a' : Nat) (b : Byte) (ha : a < 4096)
    (h : Memory.wf m = true) : Memory.read (Memory.write m a b) a' = if a' = a then b else Memory.read m a' := by
  rw [Memory.write, if_pos ha, Memory.read_put m a a' b h]

/-- Every write keeps the canonical form. -/
theorem Memory.wf_write (m : Memory) (a : Nat) (b : Byte) (h : Memory.wf m = true) :
    Memory.wf (Memory.write m a b) = true := by
  unfold Memory.write
  split
  next ha => exact Memory.wf_put m a b ha h
  next => exact h

/-- Storing a sequence of bytes keeps the canonical form. -/
theorem Memory.wf_writeBytes (bs : List Byte) (m : Memory) (a : Nat) (h : Memory.wf m = true) :
    Memory.wf (Memory.writeBytes m a bs) = true := by
  induction bs generalizing m a with
  | nil => exact h
  | cons b bs ih => exact ih _ _ (Memory.wf_write m a b h)

/-- What a sequence of bytes stores: byte `k` at `a + k`, every other byte as before (R63). -/
theorem Memory.read_writeBytes (bs : List Byte) (m : Memory) (a a' : Nat) (h : Memory.wf m = true)
    (ha : a + bs.length ≤ 4096) :
    Memory.read (Memory.writeBytes m a bs) a' =
      if a ≤ a' ∧ a' < a + bs.length then bs.getD (a' - a) 0 else Memory.read m a' := by
  induction bs generalizing m a with
  | nil => rw [Memory.writeBytes, if_neg (by simp)]
  | cons b bs ih =>
    have hl : (b :: bs).length = bs.length + 1 := rfl
    rw [hl] at ha ⊢
    rw [Memory.writeBytes, ih _ _ (Memory.wf_write m a b h) (by omega),
      Memory.read_write m a a' b (by omega) h]
    by_cases h1 : a' = a
    · subst h1
      rw [if_neg (by omega), if_pos rfl, if_pos (by omega)]
      simp
    · by_cases h2 : a + 1 ≤ a' ∧ a' < a + 1 + bs.length
      · rw [if_pos h2, if_pos (by omega)]
        obtain ⟨d, hd⟩ : ∃ d, a' = a + 1 + d := ⟨a' - (a + 1), by omega⟩
        rw [show a' - (a + 1) = d by omega, show a' - a = d + 1 by omega]
        simp
      · rw [if_neg h2, if_neg h1, if_neg (by omega)]

/-- Storing a sequence leaves every byte outside it. -/
theorem Memory.read_writeBytes_outside (bs : List Byte) (m : Memory) (a a' : Nat) (h : Memory.wf m = true)
    (ha : a + bs.length ≤ 4096) (ho : ¬(a ≤ a' ∧ a' < a + bs.length)) :
    Memory.read (Memory.writeBytes m a bs) a' = Memory.read m a' := by
  rw [Memory.read_writeBytes bs m a a' h ha, if_neg ho]

@[simp] theorem Memory.length_readBytes (m : Memory) (a n : Nat) : (Memory.readBytes m a n).length = n := by
  simp [Memory.readBytes]

/-- Byte `k` of a sequence read at `a` is the byte at `a + k` (R63). -/
theorem Memory.getElem_readBytes (m : Memory) (a n k : Nat) (h : k < (Memory.readBytes m a n).length) :
    (Memory.readBytes m a n)[k] = Memory.read m (a + k) := by
  simp [Memory.readBytes]

end Sys2Proof.Machine
end

