-- ==== Sys2Proof/Laws/Draw.lean ====
section
/-! SUPPORT. The sprite draw: the cells of a sprite, toggling one cell, toggling a list of distinct cells, and the
collision flag (spec/42_index_random_draw.md R173). -/

namespace Sys2Proof.Machine

/-- On the 64 x 32 grid (R27). -/
abbrev OnGrid (p : Nat × Nat) : Prop := p.1 < 64 ∧ p.2 < 32

/-- Off the grid there is no cell. -/
theorem Framebuffer.cell_off (fb : Framebuffer) (x y : Nat) (h : ¬OnGrid (x, y)) : Framebuffer.cell fb x y = false := by
  rw [Framebuffer.cell, dif_neg h]

/-- Two framebuffers with the same cells are equal. -/
theorem Framebuffer.ext_cells (f g : Framebuffer)
    (h : ∀ x y, x < 64 → y < 32 → Framebuffer.cell f x y = Framebuffer.cell g x y) :
    f = g := by
  refine Vector.ext fun x hx => Vector.ext fun y hy => ?_
  have := h x y hx hy
  simpa only [Framebuffer.cell, dif_pos (And.intro hx hy)] using this

/-- Toggling a cell of the grid negates it and leaves every other cell (R27, R173). -/
theorem Framebuffer.cell_toggle (fb : Framebuffer) (x y x' y' : Nat) (h : OnGrid (x, y)) :
    Framebuffer.cell (Framebuffer.toggle fb x y) x' y' =
      if (x', y') = (x, y) then !Framebuffer.cell fb x y else Framebuffer.cell fb x' y' := by
  by_cases h' : OnGrid (x', y')
  · have hx := h.1; have hy := h.2; have hx' := h'.1; have hy' := h'.2
    simp only at hx hy hx' hy'
    simp only [Framebuffer.cell, Framebuffer.toggle, hx, hy, hx', hy', and_self, dite_true, Vector.getElem_set,
      Prod.mk.injEq]
    by_cases ex : x = x'
    · subst ex
      by_cases ey : y = y'
      · subst ey; simp
      · simp [ey, Ne.symm ey]
    · simp [ex, Ne.symm ex]
  · have hne : ¬(x', y') = (x, y) := by
      rintro e
      rw [e] at h'
      exact h' h
    rw [if_neg hne, Framebuffer.cell_off _ _ _ h', Framebuffer.cell_off _ _ _ h']

/-- Every cell of a blank framebuffer is false (R122). -/
theorem Framebuffer.cell_blank (x y : Nat) : Framebuffer.cell Framebuffer.blank x y = false := by
  unfold Framebuffer.cell Framebuffer.blank
  split <;> simp

/-- What drawing distinct cells of the grid does: exactly those cells are negated (R173). -/
theorem drawCells_cell (cells : List (Nat × Nat)) (fb : Framebuffer) (hit : Bool) (hgrid : ∀ p ∈ cells, OnGrid p)
    (hd : cells.Nodup) (x y : Nat) :
    Framebuffer.cell (drawCells cells fb hit).1 x y =
      if (x, y) ∈ cells then !Framebuffer.cell fb x y else Framebuffer.cell fb x y := by
  induction cells generalizing fb hit with
  | nil => simp [drawCells]
  | cons p cells ih =>
    obtain ⟨px, py⟩ := p
    obtain ⟨hp, hd⟩ := List.nodup_cons.1 hd
    rw [drawCells, ih _ _ (fun q hq => hgrid q (by simp [hq])) hd,
      Framebuffer.cell_toggle _ _ _ _ _ (hgrid (px, py) (by simp))]
    by_cases e : (x, y) = (px, py)
    · cases e
      simp [hp]
    · simp only [List.mem_cons, e, false_or, if_false]

/-- The collision flag of a draw: some drawn cell was set before it (R173). -/
theorem drawCells_hit (cells : List (Nat × Nat)) (fb : Framebuffer) (hit : Bool) (hgrid : ∀ p ∈ cells, OnGrid p)
    (hd : cells.Nodup) :
    (drawCells cells fb hit).2 = (hit || cells.any fun p => Framebuffer.cell fb p.1 p.2) := by
  induction cells generalizing fb hit with
  | nil => simp [drawCells]
  | cons p cells ih =>
    obtain ⟨px, py⟩ := p
    obtain ⟨hp, hd⟩ := List.nodup_cons.1 hd
    rw [drawCells, ih _ _ (fun q hq => hgrid q (by simp [hq])) hd, List.any_cons, Bool.or_assoc]
    congr 2
    rw [Bool.eq_iff_iff, List.any_eq_true, List.any_eq_true]
    refine exists_congr fun q => and_congr_right fun hq => ?_
    obtain ⟨qx, qy⟩ := q
    rw [Framebuffer.cell_toggle _ _ _ _ _ (hgrid (px, py) (by simp)), if_neg]
    rintro e
    exact hp (e ▸ hq)

/-- The cells of one sprite row (R173). -/
theorem mem_rowCells (row : Byte) (x0 y0 x y : Nat) :
    (x, y) ∈ rowCells row x0 y0 ↔ ∃ c < 8, row.getLsbD (7 - c) = true ∧ x = x0 + c ∧ y = y0 := by
  simp only [rowCells, List.mem_map, List.mem_filter, List.mem_range, Prod.mk.injEq]
  constructor
  · rintro ⟨c, ⟨h1, h2⟩, h3, h4⟩
    exact ⟨c, h1, h2, h3.symm, h4.symm⟩
  · rintro ⟨c, h1, h2, h3, h4⟩
    exact ⟨c, ⟨h1, h2⟩, h3.symm, h4.symm⟩

/-- The cells of a sprite: one for each set bit `7 - c` of row `r`, at `(x0 + c, y0 + r)` (R173). -/
theorem mem_spriteCells (rows : List Byte) (x0 y0 x y : Nat) :
    (x, y) ∈ spriteCells rows x0 y0 ↔
      ∃ r < rows.length, ∃ c < 8, (rows.getD r 0).getLsbD (7 - c) = true ∧ x = x0 + c ∧ y = y0 + r := by
  induction rows generalizing y0 with
  | nil => simp [spriteCells]
  | cons b rows ih =>
    rw [spriteCells, List.mem_append, mem_rowCells, ih]
    constructor
    · rintro (⟨c, h1, h2, h3, h4⟩ | ⟨r, h0, c, h1, h2, h3, h4⟩)
      · exact ⟨0, by simp, c, h1, by simpa using h2, h3, by omega⟩
      · exact ⟨r + 1, by simpa using h0, c, h1, by simpa using h2, h3, by omega⟩
    · rintro ⟨r, h0, c, h1, h2, h3, h4⟩
      cases r with
      | zero => exact .inl ⟨c, h1, by simpa using h2, h3, by omega⟩
      | succ r => exact .inr ⟨r, by simpa using h0, c, h1, by simpa using h2, h3, by omega⟩

/-- The cells of a sprite are distinct (R173: no cell is toggled twice). -/
theorem nodup_spriteCells (rows : List Byte) (x0 y0 : Nat) : (spriteCells rows x0 y0).Nodup := by
  induction rows generalizing y0 with
  | nil => exact List.nodup_nil
  | cons b rows ih =>
    rw [spriteCells, List.nodup_append]
    refine ⟨?_, ih (y0 + 1), ?_⟩
    · refine List.Nodup.map (fun a c h => ?_) (List.Nodup.filter _ List.nodup_range)
      have := congrArg Prod.fst h
      simp only at this
      omega
    · rintro ⟨x, y⟩ h1 ⟨x', y'⟩ h2 e
      obtain ⟨-, -, -, -, hy⟩ := (mem_rowCells b x0 y0 x y).1 h1
      obtain ⟨r, -, c, -, -, -, hy'⟩ := (mem_spriteCells rows x0 (y0 + 1) x' y').1 h2
      have := congrArg Prod.snd e
      simp only at this
      omega

/-- No cell off the grid: every one is on it (R173). -/
theorem offGrid?_eq_none (cells : List (Nat × Nat)) : offGrid? cells = none ↔ ∀ p ∈ cells, OnGrid p := by
  unfold offGrid?
  rw [List.find?_eq_none]
  refine forall₂_congr fun p _ => ?_
  simp only [Bool.or_eq_true, decide_eq_true_eq]
  omega

/-- The cells of a draw are the ones its set bits fall on (R173). -/
theorem State.mem_drwCells (s : State) (x y n : Nibble) (p : Nat × Nat) :
    p ∈ s.drwCells x y n ↔ s.spriteBit x y n p := by
  obtain ⟨px, py⟩ := p
  unfold State.drwCells State.spriteBit State.rowBit
  rw [mem_spriteCells, Memory.length_readBytes]
  refine exists_congr fun r => and_congr_right fun hr => exists_congr fun c => and_congr_right fun _ => ?_
  rw [List.getD_eq_getElem _ _ (by simpa using hr), Memory.getElem_readBytes, Prod.mk.injEq]

theorem State.nodup_drwCells (s : State) (x y n : Nibble) : (s.drwCells x y n).Nodup := nodup_spriteCells _ _ _

/-- The first set bit off the grid, in row-major order, gives the cell that is recorded (R173, R233). -/
theorem offGrid?_first (rows : List Byte) (x0 y0 r c : Nat) (hr : r < rows.length) (hc : c < 8)
    (hb : (rows.getD r 0).getLsbD (7 - c) = true) (ho : 63 < x0 + c ∨ 31 < y0 + r)
    (hfirst : ∀ r' c', r' < rows.length → c' < 8 → (r' < r ∨ (r' = r ∧ c' < c)) →
      (rows.getD r' 0).getLsbD (7 - c') = true → x0 + c' ≤ 63 ∧ y0 + r' ≤ 31) :
    offGrid? (spriteCells rows x0 y0) = some (x0 + c, y0 + r) := by
  induction rows generalizing y0 r with
  | nil => simp at hr
  | cons b rows ih =>
    unfold offGrid? at ih ⊢
    rw [spriteCells, List.find?_append]
    cases r with
    | succ r =>
      have hrow : List.find? (fun p => decide (p.1 > 63) || decide (p.2 > 31)) (rowCells b x0 y0) = none := by
        rw [List.find?_eq_none]
        rintro ⟨px, py⟩ hp
        obtain ⟨c', h1, h2, h3, h4⟩ := (mem_rowCells b x0 y0 px py).1 hp
        have := hfirst 0 c' (by simp) h1 (by omega) (by simpa using h2)
        simp only [Bool.or_eq_true, decide_eq_true_eq]
        omega
      rw [hrow, Option.none_or, ih (y0 + 1) r (by simpa using hr) (by simpa using hb) (by omega)]
      · congr 2
        omega
      · intro r' c' h1 h2 h3 h4
        have := hfirst (r' + 1) c' (by simpa using h1) h2 (by omega) (by simpa using h4)
        omega
    | zero =>
      have hrow : List.find? (fun p => decide (p.1 > 63) || decide (p.2 > 31)) (rowCells b x0 y0) =
          some (x0 + c, y0) := by
        unfold rowCells
        rw [List.find?_map, Option.map_eq_some_iff]
        refine ⟨c, ?_, rfl⟩
        rw [List.find?_filter, List.find?_range_eq_some]
        refine ⟨?_, by simpa using hc, fun j hj => ?_⟩
        · simp only [List.getD_cons_zero] at hb
          simp [hb]
          omega
        · by_cases hbj : b.getLsbD (7 - j) = true
          · have := hfirst 0 j (by simp) (by omega) (by omega) (by simpa using hbj)
            simp [hbj]
            omega
          · simp [hbj]
      rw [hrow]
      rfl

end Sys2Proof.Machine
end

