-- ==== Sys2Proof/Laws/State.lean ====
section
/-! SUPPORT. One lemma per field per update of the state, and the register accessors over those updates. -/

namespace Sys2Proof.Machine

@[simp] theorem State.setV_idx (s : State) (x : Nibble) (b : Byte) : (s.setV x b).idx = s.idx := rfl
@[simp] theorem State.setV_pc (s : State) (x : Nibble) (b : Byte) : (s.setV x b).pc = s.pc := rfl
@[simp] theorem State.setV_sp (s : State) (x : Nibble) (b : Byte) : (s.setV x b).sp = s.sp := rfl
@[simp] theorem State.setV_stack (s : State) (x : Nibble) (b : Byte) : (s.setV x b).stack = s.stack := rfl
@[simp] theorem State.setV_dt (s : State) (x : Nibble) (b : Byte) : (s.setV x b).dt = s.dt := rfl
@[simp] theorem State.setV_st (s : State) (x : Nibble) (b : Byte) : (s.setV x b).st = s.st := rfl
@[simp] theorem State.setV_mem (s : State) (x : Nibble) (b : Byte) : (s.setV x b).mem = s.mem := rfl
@[simp] theorem State.setV_fb (s : State) (x : Nibble) (b : Byte) : (s.setV x b).fb = s.fb := rfl
@[simp] theorem State.setV_key (s : State) (x : Nibble) (b : Byte) : (s.setV x b).key = s.key := rfl
@[simp] theorem State.setV_run (s : State) (x : Nibble) (b : Byte) : (s.setV x b).run = s.run := rfl
@[simp] theorem State.setV_bp (s : State) (x : Nibble) (b : Byte) : (s.setV x b).bp = s.bp := rfl
@[simp] theorem State.setV_dis (s : State) (x : Nibble) (b : Byte) : (s.setV x b).dis = s.dis := rfl
@[simp] theorem State.setV_prog (s : State) (x : Nibble) (b : Byte) : (s.setV x b).prog = s.prog := rfl
@[simp] theorem State.setV_loaded (s : State) (x : Nibble) (b : Byte) : (s.setV x b).loaded = s.loaded := rfl
@[simp] theorem State.setV_ips (s : State) (x : Nibble) (b : Byte) : (s.setV x b).ips = s.ips := rfl
@[simp] theorem State.setV_t0 (s : State) (x : Nibble) (b : Byte) : (s.setV x b).t0 = s.t0 := rfl
@[simp] theorem State.setV_executed (s : State) (x : Nibble) (b : Byte) : (s.setV x b).executed = s.executed := rfl
@[simp] theorem State.setV_fault (s : State) (x : Nibble) (b : Byte) : (s.setV x b).fault = s.fault := rfl
@[simp] theorem State.setV_randDraws (s : State) (x : Nibble) (b : Byte) : (s.setV x b).randDraws = s.randDraws := rfl
@[simp] theorem State.setV_openDraws (s : State) (x : Nibble) (b : Byte) : (s.setV x b).openDraws = s.openDraws := rfl
@[simp] theorem State.setV_inbox (s : State) (x : Nibble) (b : Byte) : (s.setV x b).inbox = s.inbox := rfl

@[simp] theorem State.advance_v (s : State) : (s.advance).v = s.v := rfl
@[simp] theorem State.advance_idx (s : State) : (s.advance).idx = s.idx := rfl
@[simp] theorem State.advance_pc (s : State) : (s.advance).pc = s.pc + 2 := rfl
@[simp] theorem State.advance_sp (s : State) : (s.advance).sp = s.sp := rfl
@[simp] theorem State.advance_stack (s : State) : (s.advance).stack = s.stack := rfl
@[simp] theorem State.advance_dt (s : State) : (s.advance).dt = s.dt := rfl
@[simp] theorem State.advance_st (s : State) : (s.advance).st = s.st := rfl
@[simp] theorem State.advance_mem (s : State) : (s.advance).mem = s.mem := rfl
@[simp] theorem State.advance_fb (s : State) : (s.advance).fb = s.fb := rfl
@[simp] theorem State.advance_key (s : State) : (s.advance).key = s.key := rfl
@[simp] theorem State.advance_run (s : State) : (s.advance).run = s.run := rfl
@[simp] theorem State.advance_bp (s : State) : (s.advance).bp = s.bp := rfl
@[simp] theorem State.advance_dis (s : State) : (s.advance).dis = s.dis := rfl
@[simp] theorem State.advance_prog (s : State) : (s.advance).prog = s.prog := rfl
@[simp] theorem State.advance_loaded (s : State) : (s.advance).loaded = s.loaded := rfl
@[simp] theorem State.advance_ips (s : State) : (s.advance).ips = s.ips := rfl
@[simp] theorem State.advance_t0 (s : State) : (s.advance).t0 = s.t0 := rfl
@[simp] theorem State.advance_executed (s : State) : (s.advance).executed = s.executed := rfl
@[simp] theorem State.advance_fault (s : State) : (s.advance).fault = s.fault := rfl
@[simp] theorem State.advance_randDraws (s : State) : (s.advance).randDraws = s.randDraws := rfl
@[simp] theorem State.advance_openDraws (s : State) : (s.advance).openDraws = s.openDraws := rfl
@[simp] theorem State.advance_inbox (s : State) : (s.advance).inbox = s.inbox := rfl

@[simp] theorem State.rewind_v (s : State) : (s.rewind).v = s.v := rfl
@[simp] theorem State.rewind_idx (s : State) : (s.rewind).idx = s.idx := rfl
@[simp] theorem State.rewind_pc (s : State) : (s.rewind).pc = s.pc - 2 := rfl
@[simp] theorem State.rewind_sp (s : State) : (s.rewind).sp = s.sp := rfl
@[simp] theorem State.rewind_stack (s : State) : (s.rewind).stack = s.stack := rfl
@[simp] theorem State.rewind_dt (s : State) : (s.rewind).dt = s.dt := rfl
@[simp] theorem State.rewind_st (s : State) : (s.rewind).st = s.st := rfl
@[simp] theorem State.rewind_mem (s : State) : (s.rewind).mem = s.mem := rfl
@[simp] theorem State.rewind_fb (s : State) : (s.rewind).fb = s.fb := rfl
@[simp] theorem State.rewind_key (s : State) : (s.rewind).key = s.key := rfl
@[simp] theorem State.rewind_run (s : State) : (s.rewind).run = s.run := rfl
@[simp] theorem State.rewind_bp (s : State) : (s.rewind).bp = s.bp := rfl
@[simp] theorem State.rewind_dis (s : State) : (s.rewind).dis = s.dis := rfl
@[simp] theorem State.rewind_prog (s : State) : (s.rewind).prog = s.prog := rfl
@[simp] theorem State.rewind_loaded (s : State) : (s.rewind).loaded = s.loaded := rfl
@[simp] theorem State.rewind_ips (s : State) : (s.rewind).ips = s.ips := rfl
@[simp] theorem State.rewind_t0 (s : State) : (s.rewind).t0 = s.t0 := rfl
@[simp] theorem State.rewind_executed (s : State) : (s.rewind).executed = s.executed := rfl
@[simp] theorem State.rewind_fault (s : State) : (s.rewind).fault = s.fault := rfl
@[simp] theorem State.rewind_randDraws (s : State) : (s.rewind).randDraws = s.randDraws := rfl
@[simp] theorem State.rewind_openDraws (s : State) : (s.rewind).openDraws = s.openDraws := rfl
@[simp] theorem State.rewind_inbox (s : State) : (s.rewind).inbox = s.inbox := rfl

@[simp] theorem State.setPc_v (s : State) (w : Word) : (s.setPc w).v = s.v := rfl
@[simp] theorem State.setPc_idx (s : State) (w : Word) : (s.setPc w).idx = s.idx := rfl
@[simp] theorem State.setPc_pc (s : State) (w : Word) : (s.setPc w).pc = w := rfl
@[simp] theorem State.setPc_sp (s : State) (w : Word) : (s.setPc w).sp = s.sp := rfl
@[simp] theorem State.setPc_stack (s : State) (w : Word) : (s.setPc w).stack = s.stack := rfl
@[simp] theorem State.setPc_dt (s : State) (w : Word) : (s.setPc w).dt = s.dt := rfl
@[simp] theorem State.setPc_st (s : State) (w : Word) : (s.setPc w).st = s.st := rfl
@[simp] theorem State.setPc_mem (s : State) (w : Word) : (s.setPc w).mem = s.mem := rfl
@[simp] theorem State.setPc_fb (s : State) (w : Word) : (s.setPc w).fb = s.fb := rfl
@[simp] theorem State.setPc_key (s : State) (w : Word) : (s.setPc w).key = s.key := rfl
@[simp] theorem State.setPc_run (s : State) (w : Word) : (s.setPc w).run = s.run := rfl
@[simp] theorem State.setPc_bp (s : State) (w : Word) : (s.setPc w).bp = s.bp := rfl
@[simp] theorem State.setPc_dis (s : State) (w : Word) : (s.setPc w).dis = s.dis := rfl
@[simp] theorem State.setPc_prog (s : State) (w : Word) : (s.setPc w).prog = s.prog := rfl
@[simp] theorem State.setPc_loaded (s : State) (w : Word) : (s.setPc w).loaded = s.loaded := rfl
@[simp] theorem State.setPc_ips (s : State) (w : Word) : (s.setPc w).ips = s.ips := rfl
@[simp] theorem State.setPc_t0 (s : State) (w : Word) : (s.setPc w).t0 = s.t0 := rfl
@[simp] theorem State.setPc_executed (s : State) (w : Word) : (s.setPc w).executed = s.executed := rfl
@[simp] theorem State.setPc_fault (s : State) (w : Word) : (s.setPc w).fault = s.fault := rfl
@[simp] theorem State.setPc_randDraws (s : State) (w : Word) : (s.setPc w).randDraws = s.randDraws := rfl
@[simp] theorem State.setPc_openDraws (s : State) (w : Word) : (s.setPc w).openDraws = s.openDraws := rfl
@[simp] theorem State.setPc_inbox (s : State) (w : Word) : (s.setPc w).inbox = s.inbox := rfl

@[simp] theorem State.setIdx_v (s : State) (w : Word) : (s.setIdx w).v = s.v := rfl
@[simp] theorem State.setIdx_idx (s : State) (w : Word) : (s.setIdx w).idx = w := rfl
@[simp] theorem State.setIdx_pc (s : State) (w : Word) : (s.setIdx w).pc = s.pc := rfl
@[simp] theorem State.setIdx_sp (s : State) (w : Word) : (s.setIdx w).sp = s.sp := rfl
@[simp] theorem State.setIdx_stack (s : State) (w : Word) : (s.setIdx w).stack = s.stack := rfl
@[simp] theorem State.setIdx_dt (s : State) (w : Word) : (s.setIdx w).dt = s.dt := rfl
@[simp] theorem State.setIdx_st (s : State) (w : Word) : (s.setIdx w).st = s.st := rfl
@[simp] theorem State.setIdx_mem (s : State) (w : Word) : (s.setIdx w).mem = s.mem := rfl
@[simp] theorem State.setIdx_fb (s : State) (w : Word) : (s.setIdx w).fb = s.fb := rfl
@[simp] theorem State.setIdx_key (s : State) (w : Word) : (s.setIdx w).key = s.key := rfl
@[simp] theorem State.setIdx_run (s : State) (w : Word) : (s.setIdx w).run = s.run := rfl
@[simp] theorem State.setIdx_bp (s : State) (w : Word) : (s.setIdx w).bp = s.bp := rfl
@[simp] theorem State.setIdx_dis (s : State) (w : Word) : (s.setIdx w).dis = s.dis := rfl
@[simp] theorem State.setIdx_prog (s : State) (w : Word) : (s.setIdx w).prog = s.prog := rfl
@[simp] theorem State.setIdx_loaded (s : State) (w : Word) : (s.setIdx w).loaded = s.loaded := rfl
@[simp] theorem State.setIdx_ips (s : State) (w : Word) : (s.setIdx w).ips = s.ips := rfl
@[simp] theorem State.setIdx_t0 (s : State) (w : Word) : (s.setIdx w).t0 = s.t0 := rfl
@[simp] theorem State.setIdx_executed (s : State) (w : Word) : (s.setIdx w).executed = s.executed := rfl
@[simp] theorem State.setIdx_fault (s : State) (w : Word) : (s.setIdx w).fault = s.fault := rfl
@[simp] theorem State.setIdx_randDraws (s : State) (w : Word) : (s.setIdx w).randDraws = s.randDraws := rfl
@[simp] theorem State.setIdx_openDraws (s : State) (w : Word) : (s.setIdx w).openDraws = s.openDraws := rfl
@[simp] theorem State.setIdx_inbox (s : State) (w : Word) : (s.setIdx w).inbox = s.inbox := rfl

@[simp] theorem State.setDt_v (s : State) (b : Byte) : (s.setDt b).v = s.v := rfl
@[simp] theorem State.setDt_idx (s : State) (b : Byte) : (s.setDt b).idx = s.idx := rfl
@[simp] theorem State.setDt_pc (s : State) (b : Byte) : (s.setDt b).pc = s.pc := rfl
@[simp] theorem State.setDt_sp (s : State) (b : Byte) : (s.setDt b).sp = s.sp := rfl
@[simp] theorem State.setDt_stack (s : State) (b : Byte) : (s.setDt b).stack = s.stack := rfl
@[simp] theorem State.setDt_dt (s : State) (b : Byte) : (s.setDt b).dt = b := rfl
@[simp] theorem State.setDt_st (s : State) (b : Byte) : (s.setDt b).st = s.st := rfl
@[simp] theorem State.setDt_mem (s : State) (b : Byte) : (s.setDt b).mem = s.mem := rfl
@[simp] theorem State.setDt_fb (s : State) (b : Byte) : (s.setDt b).fb = s.fb := rfl
@[simp] theorem State.setDt_key (s : State) (b : Byte) : (s.setDt b).key = s.key := rfl
@[simp] theorem State.setDt_run (s : State) (b : Byte) : (s.setDt b).run = s.run := rfl
@[simp] theorem State.setDt_bp (s : State) (b : Byte) : (s.setDt b).bp = s.bp := rfl
@[simp] theorem State.setDt_dis (s : State) (b : Byte) : (s.setDt b).dis = s.dis := rfl
@[simp] theorem State.setDt_prog (s : State) (b : Byte) : (s.setDt b).prog = s.prog := rfl
@[simp] theorem State.setDt_loaded (s : State) (b : Byte) : (s.setDt b).loaded = s.loaded := rfl
@[simp] theorem State.setDt_ips (s : State) (b : Byte) : (s.setDt b).ips = s.ips := rfl
@[simp] theorem State.setDt_t0 (s : State) (b : Byte) : (s.setDt b).t0 = s.t0 := rfl
@[simp] theorem State.setDt_executed (s : State) (b : Byte) : (s.setDt b).executed = s.executed := rfl
@[simp] theorem State.setDt_fault (s : State) (b : Byte) : (s.setDt b).fault = s.fault := rfl
@[simp] theorem State.setDt_randDraws (s : State) (b : Byte) : (s.setDt b).randDraws = s.randDraws := rfl
@[simp] theorem State.setDt_openDraws (s : State) (b : Byte) : (s.setDt b).openDraws = s.openDraws := rfl
@[simp] theorem State.setDt_inbox (s : State) (b : Byte) : (s.setDt b).inbox = s.inbox := rfl

@[simp] theorem State.setSt_v (s : State) (b : Byte) : (s.setSt b).v = s.v := rfl
@[simp] theorem State.setSt_idx (s : State) (b : Byte) : (s.setSt b).idx = s.idx := rfl
@[simp] theorem State.setSt_pc (s : State) (b : Byte) : (s.setSt b).pc = s.pc := rfl
@[simp] theorem State.setSt_sp (s : State) (b : Byte) : (s.setSt b).sp = s.sp := rfl
@[simp] theorem State.setSt_stack (s : State) (b : Byte) : (s.setSt b).stack = s.stack := rfl
@[simp] theorem State.setSt_dt (s : State) (b : Byte) : (s.setSt b).dt = s.dt := rfl
@[simp] theorem State.setSt_st (s : State) (b : Byte) : (s.setSt b).st = b := rfl
@[simp] theorem State.setSt_mem (s : State) (b : Byte) : (s.setSt b).mem = s.mem := rfl
@[simp] theorem State.setSt_fb (s : State) (b : Byte) : (s.setSt b).fb = s.fb := rfl
@[simp] theorem State.setSt_key (s : State) (b : Byte) : (s.setSt b).key = s.key := rfl
@[simp] theorem State.setSt_run (s : State) (b : Byte) : (s.setSt b).run = s.run := rfl
@[simp] theorem State.setSt_bp (s : State) (b : Byte) : (s.setSt b).bp = s.bp := rfl
@[simp] theorem State.setSt_dis (s : State) (b : Byte) : (s.setSt b).dis = s.dis := rfl
@[simp] theorem State.setSt_prog (s : State) (b : Byte) : (s.setSt b).prog = s.prog := rfl
@[simp] theorem State.setSt_loaded (s : State) (b : Byte) : (s.setSt b).loaded = s.loaded := rfl
@[simp] theorem State.setSt_ips (s : State) (b : Byte) : (s.setSt b).ips = s.ips := rfl
@[simp] theorem State.setSt_t0 (s : State) (b : Byte) : (s.setSt b).t0 = s.t0 := rfl
@[simp] theorem State.setSt_executed (s : State) (b : Byte) : (s.setSt b).executed = s.executed := rfl
@[simp] theorem State.setSt_fault (s : State) (b : Byte) : (s.setSt b).fault = s.fault := rfl
@[simp] theorem State.setSt_randDraws (s : State) (b : Byte) : (s.setSt b).randDraws = s.randDraws := rfl
@[simp] theorem State.setSt_openDraws (s : State) (b : Byte) : (s.setSt b).openDraws = s.openDraws := rfl
@[simp] theorem State.setSt_inbox (s : State) (b : Byte) : (s.setSt b).inbox = s.inbox := rfl

@[simp] theorem State.setMem_v (s : State) (m : Memory) : (s.setMem m).v = s.v := rfl
@[simp] theorem State.setMem_idx (s : State) (m : Memory) : (s.setMem m).idx = s.idx := rfl
@[simp] theorem State.setMem_pc (s : State) (m : Memory) : (s.setMem m).pc = s.pc := rfl
@[simp] theorem State.setMem_sp (s : State) (m : Memory) : (s.setMem m).sp = s.sp := rfl
@[simp] theorem State.setMem_stack (s : State) (m : Memory) : (s.setMem m).stack = s.stack := rfl
@[simp] theorem State.setMem_dt (s : State) (m : Memory) : (s.setMem m).dt = s.dt := rfl
@[simp] theorem State.setMem_st (s : State) (m : Memory) : (s.setMem m).st = s.st := rfl
@[simp] theorem State.setMem_mem (s : State) (m : Memory) : (s.setMem m).mem = m := rfl
@[simp] theorem State.setMem_fb (s : State) (m : Memory) : (s.setMem m).fb = s.fb := rfl
@[simp] theorem State.setMem_key (s : State) (m : Memory) : (s.setMem m).key = s.key := rfl
@[simp] theorem State.setMem_run (s : State) (m : Memory) : (s.setMem m).run = s.run := rfl
@[simp] theorem State.setMem_bp (s : State) (m : Memory) : (s.setMem m).bp = s.bp := rfl
@[simp] theorem State.setMem_dis (s : State) (m : Memory) : (s.setMem m).dis = s.dis := rfl
@[simp] theorem State.setMem_prog (s : State) (m : Memory) : (s.setMem m).prog = s.prog := rfl
@[simp] theorem State.setMem_loaded (s : State) (m : Memory) : (s.setMem m).loaded = s.loaded := rfl
@[simp] theorem State.setMem_ips (s : State) (m : Memory) : (s.setMem m).ips = s.ips := rfl
@[simp] theorem State.setMem_t0 (s : State) (m : Memory) : (s.setMem m).t0 = s.t0 := rfl
@[simp] theorem State.setMem_executed (s : State) (m : Memory) : (s.setMem m).executed = s.executed := rfl
@[simp] theorem State.setMem_fault (s : State) (m : Memory) : (s.setMem m).fault = s.fault := rfl
@[simp] theorem State.setMem_randDraws (s : State) (m : Memory) : (s.setMem m).randDraws = s.randDraws := rfl
@[simp] theorem State.setMem_openDraws (s : State) (m : Memory) : (s.setMem m).openDraws = s.openDraws := rfl
@[simp] theorem State.setMem_inbox (s : State) (m : Memory) : (s.setMem m).inbox = s.inbox := rfl

@[simp] theorem State.setFb_v (s : State) (f : Framebuffer) : (s.setFb f).v = s.v := rfl
@[simp] theorem State.setFb_idx (s : State) (f : Framebuffer) : (s.setFb f).idx = s.idx := rfl
@[simp] theorem State.setFb_pc (s : State) (f : Framebuffer) : (s.setFb f).pc = s.pc := rfl
@[simp] theorem State.setFb_sp (s : State) (f : Framebuffer) : (s.setFb f).sp = s.sp := rfl
@[simp] theorem State.setFb_stack (s : State) (f : Framebuffer) : (s.setFb f).stack = s.stack := rfl
@[simp] theorem State.setFb_dt (s : State) (f : Framebuffer) : (s.setFb f).dt = s.dt := rfl
@[simp] theorem State.setFb_st (s : State) (f : Framebuffer) : (s.setFb f).st = s.st := rfl
@[simp] theorem State.setFb_mem (s : State) (f : Framebuffer) : (s.setFb f).mem = s.mem := rfl
@[simp] theorem State.setFb_fb (s : State) (f : Framebuffer) : (s.setFb f).fb = f := rfl
@[simp] theorem State.setFb_key (s : State) (f : Framebuffer) : (s.setFb f).key = s.key := rfl
@[simp] theorem State.setFb_run (s : State) (f : Framebuffer) : (s.setFb f).run = s.run := rfl
@[simp] theorem State.setFb_bp (s : State) (f : Framebuffer) : (s.setFb f).bp = s.bp := rfl
@[simp] theorem State.setFb_dis (s : State) (f : Framebuffer) : (s.setFb f).dis = s.dis := rfl
@[simp] theorem State.setFb_prog (s : State) (f : Framebuffer) : (s.setFb f).prog = s.prog := rfl
@[simp] theorem State.setFb_loaded (s : State) (f : Framebuffer) : (s.setFb f).loaded = s.loaded := rfl
@[simp] theorem State.setFb_ips (s : State) (f : Framebuffer) : (s.setFb f).ips = s.ips := rfl
@[simp] theorem State.setFb_t0 (s : State) (f : Framebuffer) : (s.setFb f).t0 = s.t0 := rfl
@[simp] theorem State.setFb_executed (s : State) (f : Framebuffer) : (s.setFb f).executed = s.executed := rfl
@[simp] theorem State.setFb_fault (s : State) (f : Framebuffer) : (s.setFb f).fault = s.fault := rfl
@[simp] theorem State.setFb_randDraws (s : State) (f : Framebuffer) : (s.setFb f).randDraws = s.randDraws := rfl
@[simp] theorem State.setFb_openDraws (s : State) (f : Framebuffer) : (s.setFb f).openDraws = s.openDraws := rfl
@[simp] theorem State.setFb_inbox (s : State) (f : Framebuffer) : (s.setFb f).inbox = s.inbox := rfl

@[simp] theorem State.push_v (s : State) (w : Word) : (s.push w).v = s.v := rfl
@[simp] theorem State.push_idx (s : State) (w : Word) : (s.push w).idx = s.idx := rfl
@[simp] theorem State.push_pc (s : State) (w : Word) : (s.push w).pc = s.pc := rfl
@[simp] theorem State.push_sp (s : State) (w : Word) : (s.push w).sp = s.sp + 1 := rfl
@[simp] theorem State.push_stack (s : State) (w : Word) : (s.push w).stack = s.stack.setIfInBounds s.sp.toNat w := rfl
@[simp] theorem State.push_dt (s : State) (w : Word) : (s.push w).dt = s.dt := rfl
@[simp] theorem State.push_st (s : State) (w : Word) : (s.push w).st = s.st := rfl
@[simp] theorem State.push_mem (s : State) (w : Word) : (s.push w).mem = s.mem := rfl
@[simp] theorem State.push_fb (s : State) (w : Word) : (s.push w).fb = s.fb := rfl
@[simp] theorem State.push_key (s : State) (w : Word) : (s.push w).key = s.key := rfl
@[simp] theorem State.push_run (s : State) (w : Word) : (s.push w).run = s.run := rfl
@[simp] theorem State.push_bp (s : State) (w : Word) : (s.push w).bp = s.bp := rfl
@[simp] theorem State.push_dis (s : State) (w : Word) : (s.push w).dis = s.dis := rfl
@[simp] theorem State.push_prog (s : State) (w : Word) : (s.push w).prog = s.prog := rfl
@[simp] theorem State.push_loaded (s : State) (w : Word) : (s.push w).loaded = s.loaded := rfl
@[simp] theorem State.push_ips (s : State) (w : Word) : (s.push w).ips = s.ips := rfl
@[simp] theorem State.push_t0 (s : State) (w : Word) : (s.push w).t0 = s.t0 := rfl
@[simp] theorem State.push_executed (s : State) (w : Word) : (s.push w).executed = s.executed := rfl
@[simp] theorem State.push_fault (s : State) (w : Word) : (s.push w).fault = s.fault := rfl
@[simp] theorem State.push_randDraws (s : State) (w : Word) : (s.push w).randDraws = s.randDraws := rfl
@[simp] theorem State.push_openDraws (s : State) (w : Word) : (s.push w).openDraws = s.openDraws := rfl
@[simp] theorem State.push_inbox (s : State) (w : Word) : (s.push w).inbox = s.inbox := rfl

@[simp] theorem State.dropTop_v (s : State) : (s.dropTop).v = s.v := rfl
@[simp] theorem State.dropTop_idx (s : State) : (s.dropTop).idx = s.idx := rfl
@[simp] theorem State.dropTop_pc (s : State) : (s.dropTop).pc = s.pc := rfl
@[simp] theorem State.dropTop_sp (s : State) : (s.dropTop).sp = s.sp - 1 := rfl
@[simp] theorem State.dropTop_stack (s : State) : (s.dropTop).stack = s.stack := rfl
@[simp] theorem State.dropTop_dt (s : State) : (s.dropTop).dt = s.dt := rfl
@[simp] theorem State.dropTop_st (s : State) : (s.dropTop).st = s.st := rfl
@[simp] theorem State.dropTop_mem (s : State) : (s.dropTop).mem = s.mem := rfl
@[simp] theorem State.dropTop_fb (s : State) : (s.dropTop).fb = s.fb := rfl
@[simp] theorem State.dropTop_key (s : State) : (s.dropTop).key = s.key := rfl
@[simp] theorem State.dropTop_run (s : State) : (s.dropTop).run = s.run := rfl
@[simp] theorem State.dropTop_bp (s : State) : (s.dropTop).bp = s.bp := rfl
@[simp] theorem State.dropTop_dis (s : State) : (s.dropTop).dis = s.dis := rfl
@[simp] theorem State.dropTop_prog (s : State) : (s.dropTop).prog = s.prog := rfl
@[simp] theorem State.dropTop_loaded (s : State) : (s.dropTop).loaded = s.loaded := rfl
@[simp] theorem State.dropTop_ips (s : State) : (s.dropTop).ips = s.ips := rfl
@[simp] theorem State.dropTop_t0 (s : State) : (s.dropTop).t0 = s.t0 := rfl
@[simp] theorem State.dropTop_executed (s : State) : (s.dropTop).executed = s.executed := rfl
@[simp] theorem State.dropTop_fault (s : State) : (s.dropTop).fault = s.fault := rfl
@[simp] theorem State.dropTop_randDraws (s : State) : (s.dropTop).randDraws = s.randDraws := rfl
@[simp] theorem State.dropTop_openDraws (s : State) : (s.dropTop).openDraws = s.openDraws := rfl
@[simp] theorem State.dropTop_inbox (s : State) : (s.dropTop).inbox = s.inbox := rfl

@[simp] theorem State.takeFault_v (s : State) (c : FaultCause) : (s.takeFault c).v = s.v := rfl
@[simp] theorem State.takeFault_idx (s : State) (c : FaultCause) : (s.takeFault c).idx = s.idx := rfl
@[simp] theorem State.takeFault_pc (s : State) (c : FaultCause) : (s.takeFault c).pc = s.pc := rfl
@[simp] theorem State.takeFault_sp (s : State) (c : FaultCause) : (s.takeFault c).sp = s.sp := rfl
@[simp] theorem State.takeFault_stack (s : State) (c : FaultCause) : (s.takeFault c).stack = s.stack := rfl
@[simp] theorem State.takeFault_dt (s : State) (c : FaultCause) : (s.takeFault c).dt = s.dt := rfl
@[simp] theorem State.takeFault_st (s : State) (c : FaultCause) : (s.takeFault c).st = s.st := rfl
@[simp] theorem State.takeFault_mem (s : State) (c : FaultCause) : (s.takeFault c).mem = s.mem := rfl
@[simp] theorem State.takeFault_fb (s : State) (c : FaultCause) : (s.takeFault c).fb = s.fb := rfl
@[simp] theorem State.takeFault_key (s : State) (c : FaultCause) : (s.takeFault c).key = s.key := rfl
@[simp] theorem State.takeFault_run (s : State) (c : FaultCause) : (s.takeFault c).run = false := rfl
@[simp] theorem State.takeFault_bp (s : State) (c : FaultCause) : (s.takeFault c).bp = s.bp := rfl
@[simp] theorem State.takeFault_dis (s : State) (c : FaultCause) : (s.takeFault c).dis = s.dis := rfl
@[simp] theorem State.takeFault_prog (s : State) (c : FaultCause) : (s.takeFault c).prog = s.prog := rfl
@[simp] theorem State.takeFault_loaded (s : State) (c : FaultCause) : (s.takeFault c).loaded = s.loaded := rfl
@[simp] theorem State.takeFault_ips (s : State) (c : FaultCause) : (s.takeFault c).ips = s.ips := rfl
@[simp] theorem State.takeFault_t0 (s : State) (c : FaultCause) : (s.takeFault c).t0 = s.t0 := rfl
@[simp] theorem State.takeFault_executed (s : State) (c : FaultCause) : (s.takeFault c).executed = s.executed := rfl
@[simp] theorem State.takeFault_fault (s : State) (c : FaultCause) : (s.takeFault c).fault = some ⟨c, s.pc⟩ := rfl
@[simp] theorem State.takeFault_randDraws (s : State) (c : FaultCause) : (s.takeFault c).randDraws = s.randDraws := rfl
@[simp] theorem State.takeFault_openDraws (s : State) (c : FaultCause) : (s.takeFault c).openDraws = s.openDraws := rfl
@[simp] theorem State.takeFault_inbox (s : State) (c : FaultCause) : (s.takeFault c).inbox = s.inbox := rfl

@[simp] theorem State.setFlag_idx (s : State) (b : Byte) : (s.setFlag b).idx = s.idx := rfl
@[simp] theorem State.setFlag_pc (s : State) (b : Byte) : (s.setFlag b).pc = s.pc := rfl
@[simp] theorem State.setFlag_sp (s : State) (b : Byte) : (s.setFlag b).sp = s.sp := rfl
@[simp] theorem State.setFlag_stack (s : State) (b : Byte) : (s.setFlag b).stack = s.stack := rfl
@[simp] theorem State.setFlag_dt (s : State) (b : Byte) : (s.setFlag b).dt = s.dt := rfl
@[simp] theorem State.setFlag_st (s : State) (b : Byte) : (s.setFlag b).st = s.st := rfl
@[simp] theorem State.setFlag_mem (s : State) (b : Byte) : (s.setFlag b).mem = s.mem := rfl
@[simp] theorem State.setFlag_fb (s : State) (b : Byte) : (s.setFlag b).fb = s.fb := rfl
@[simp] theorem State.setFlag_key (s : State) (b : Byte) : (s.setFlag b).key = s.key := rfl
@[simp] theorem State.setFlag_run (s : State) (b : Byte) : (s.setFlag b).run = s.run := rfl
@[simp] theorem State.setFlag_bp (s : State) (b : Byte) : (s.setFlag b).bp = s.bp := rfl
@[simp] theorem State.setFlag_dis (s : State) (b : Byte) : (s.setFlag b).dis = s.dis := rfl
@[simp] theorem State.setFlag_prog (s : State) (b : Byte) : (s.setFlag b).prog = s.prog := rfl
@[simp] theorem State.setFlag_loaded (s : State) (b : Byte) : (s.setFlag b).loaded = s.loaded := rfl
@[simp] theorem State.setFlag_ips (s : State) (b : Byte) : (s.setFlag b).ips = s.ips := rfl
@[simp] theorem State.setFlag_t0 (s : State) (b : Byte) : (s.setFlag b).t0 = s.t0 := rfl
@[simp] theorem State.setFlag_executed (s : State) (b : Byte) : (s.setFlag b).executed = s.executed := rfl
@[simp] theorem State.setFlag_fault (s : State) (b : Byte) : (s.setFlag b).fault = s.fault := rfl
@[simp] theorem State.setFlag_randDraws (s : State) (b : Byte) : (s.setFlag b).randDraws = s.randDraws := rfl
@[simp] theorem State.setFlag_openDraws (s : State) (b : Byte) : (s.setFlag b).openDraws = s.openDraws := rfl
@[simp] theorem State.setFlag_inbox (s : State) (b : Byte) : (s.setFlag b).inbox = s.inbox := rfl

@[simp] theorem State.loadRegsTo_idx (s : State) (x : Nibble) : (s.loadRegsTo x).idx = s.idx := rfl
@[simp] theorem State.loadRegsTo_pc (s : State) (x : Nibble) : (s.loadRegsTo x).pc = s.pc := rfl
@[simp] theorem State.loadRegsTo_sp (s : State) (x : Nibble) : (s.loadRegsTo x).sp = s.sp := rfl
@[simp] theorem State.loadRegsTo_stack (s : State) (x : Nibble) : (s.loadRegsTo x).stack = s.stack := rfl
@[simp] theorem State.loadRegsTo_dt (s : State) (x : Nibble) : (s.loadRegsTo x).dt = s.dt := rfl
@[simp] theorem State.loadRegsTo_st (s : State) (x : Nibble) : (s.loadRegsTo x).st = s.st := rfl
@[simp] theorem State.loadRegsTo_mem (s : State) (x : Nibble) : (s.loadRegsTo x).mem = s.mem := rfl
@[simp] theorem State.loadRegsTo_fb (s : State) (x : Nibble) : (s.loadRegsTo x).fb = s.fb := rfl
@[simp] theorem State.loadRegsTo_key (s : State) (x : Nibble) : (s.loadRegsTo x).key = s.key := rfl
@[simp] theorem State.loadRegsTo_run (s : State) (x : Nibble) : (s.loadRegsTo x).run = s.run := rfl
@[simp] theorem State.loadRegsTo_bp (s : State) (x : Nibble) : (s.loadRegsTo x).bp = s.bp := rfl
@[simp] theorem State.loadRegsTo_dis (s : State) (x : Nibble) : (s.loadRegsTo x).dis = s.dis := rfl
@[simp] theorem State.loadRegsTo_prog (s : State) (x : Nibble) : (s.loadRegsTo x).prog = s.prog := rfl
@[simp] theorem State.loadRegsTo_loaded (s : State) (x : Nibble) : (s.loadRegsTo x).loaded = s.loaded := rfl
@[simp] theorem State.loadRegsTo_ips (s : State) (x : Nibble) : (s.loadRegsTo x).ips = s.ips := rfl
@[simp] theorem State.loadRegsTo_t0 (s : State) (x : Nibble) : (s.loadRegsTo x).t0 = s.t0 := rfl
@[simp] theorem State.loadRegsTo_executed (s : State) (x : Nibble) : (s.loadRegsTo x).executed = s.executed := rfl
@[simp] theorem State.loadRegsTo_fault (s : State) (x : Nibble) : (s.loadRegsTo x).fault = s.fault := rfl
@[simp] theorem State.loadRegsTo_randDraws (s : State) (x : Nibble) : (s.loadRegsTo x).randDraws = s.randDraws := rfl
@[simp] theorem State.loadRegsTo_openDraws (s : State) (x : Nibble) : (s.loadRegsTo x).openDraws = s.openDraws := rfl
@[simp] theorem State.loadRegsTo_inbox (s : State) (x : Nibble) : (s.loadRegsTo x).inbox = s.inbox := rfl

@[simp] theorem State.pacingReset_v (s : State) (now : Nat) : (s.pacingReset now).v = s.v := rfl
@[simp] theorem State.pacingReset_idx (s : State) (now : Nat) : (s.pacingReset now).idx = s.idx := rfl
@[simp] theorem State.pacingReset_pc (s : State) (now : Nat) : (s.pacingReset now).pc = s.pc := rfl
@[simp] theorem State.pacingReset_sp (s : State) (now : Nat) : (s.pacingReset now).sp = s.sp := rfl
@[simp] theorem State.pacingReset_stack (s : State) (now : Nat) : (s.pacingReset now).stack = s.stack := rfl
@[simp] theorem State.pacingReset_dt (s : State) (now : Nat) : (s.pacingReset now).dt = s.dt := rfl
@[simp] theorem State.pacingReset_st (s : State) (now : Nat) : (s.pacingReset now).st = s.st := rfl
@[simp] theorem State.pacingReset_mem (s : State) (now : Nat) : (s.pacingReset now).mem = s.mem := rfl
@[simp] theorem State.pacingReset_fb (s : State) (now : Nat) : (s.pacingReset now).fb = s.fb := rfl
@[simp] theorem State.pacingReset_key (s : State) (now : Nat) : (s.pacingReset now).key = s.key := rfl
@[simp] theorem State.pacingReset_run (s : State) (now : Nat) : (s.pacingReset now).run = s.run := rfl
@[simp] theorem State.pacingReset_bp (s : State) (now : Nat) : (s.pacingReset now).bp = s.bp := rfl
@[simp] theorem State.pacingReset_dis (s : State) (now : Nat) : (s.pacingReset now).dis = s.dis := rfl
@[simp] theorem State.pacingReset_prog (s : State) (now : Nat) : (s.pacingReset now).prog = s.prog := rfl
@[simp] theorem State.pacingReset_loaded (s : State) (now : Nat) : (s.pacingReset now).loaded = s.loaded := rfl
@[simp] theorem State.pacingReset_ips (s : State) (now : Nat) : (s.pacingReset now).ips = s.ips := rfl
@[simp] theorem State.pacingReset_t0 (s : State) (now : Nat) : (s.pacingReset now).t0 = now := rfl
@[simp] theorem State.pacingReset_executed (s : State) (now : Nat) : (s.pacingReset now).executed = 0 := rfl
@[simp] theorem State.pacingReset_fault (s : State) (now : Nat) : (s.pacingReset now).fault = s.fault := rfl
@[simp] theorem State.pacingReset_randDraws (s : State) (now : Nat) : (s.pacingReset now).randDraws = s.randDraws := rfl
@[simp] theorem State.pacingReset_openDraws (s : State) (now : Nat) : (s.pacingReset now).openDraws = s.openDraws := rfl
@[simp] theorem State.pacingReset_inbox (s : State) (now : Nat) : (s.pacingReset now).inbox = s.inbox := rfl

@[simp] theorem State.setRun_v (s : State) (b : Bool) : (s.setRun b).v = s.v := rfl
@[simp] theorem State.setRun_idx (s : State) (b : Bool) : (s.setRun b).idx = s.idx := rfl
@[simp] theorem State.setRun_pc (s : State) (b : Bool) : (s.setRun b).pc = s.pc := rfl
@[simp] theorem State.setRun_sp (s : State) (b : Bool) : (s.setRun b).sp = s.sp := rfl
@[simp] theorem State.setRun_stack (s : State) (b : Bool) : (s.setRun b).stack = s.stack := rfl
@[simp] theorem State.setRun_dt (s : State) (b : Bool) : (s.setRun b).dt = s.dt := rfl
@[simp] theorem State.setRun_st (s : State) (b : Bool) : (s.setRun b).st = s.st := rfl
@[simp] theorem State.setRun_mem (s : State) (b : Bool) : (s.setRun b).mem = s.mem := rfl
@[simp] theorem State.setRun_fb (s : State) (b : Bool) : (s.setRun b).fb = s.fb := rfl
@[simp] theorem State.setRun_key (s : State) (b : Bool) : (s.setRun b).key = s.key := rfl
@[simp] theorem State.setRun_run (s : State) (b : Bool) : (s.setRun b).run = b := rfl
@[simp] theorem State.setRun_bp (s : State) (b : Bool) : (s.setRun b).bp = s.bp := rfl
@[simp] theorem State.setRun_dis (s : State) (b : Bool) : (s.setRun b).dis = s.dis := rfl
@[simp] theorem State.setRun_prog (s : State) (b : Bool) : (s.setRun b).prog = s.prog := rfl
@[simp] theorem State.setRun_loaded (s : State) (b : Bool) : (s.setRun b).loaded = s.loaded := rfl
@[simp] theorem State.setRun_ips (s : State) (b : Bool) : (s.setRun b).ips = s.ips := rfl
@[simp] theorem State.setRun_t0 (s : State) (b : Bool) : (s.setRun b).t0 = s.t0 := rfl
@[simp] theorem State.setRun_executed (s : State) (b : Bool) : (s.setRun b).executed = s.executed := rfl
@[simp] theorem State.setRun_fault (s : State) (b : Bool) : (s.setRun b).fault = s.fault := rfl
@[simp] theorem State.setRun_randDraws (s : State) (b : Bool) : (s.setRun b).randDraws = s.randDraws := rfl
@[simp] theorem State.setRun_openDraws (s : State) (b : Bool) : (s.setRun b).openDraws = s.openDraws := rfl
@[simp] theorem State.setRun_inbox (s : State) (b : Bool) : (s.setRun b).inbox = s.inbox := rfl

@[simp] theorem State.countExecuted_v (s : State) : (s.countExecuted).v = s.v := rfl
@[simp] theorem State.countExecuted_idx (s : State) : (s.countExecuted).idx = s.idx := rfl
@[simp] theorem State.countExecuted_pc (s : State) : (s.countExecuted).pc = s.pc := rfl
@[simp] theorem State.countExecuted_sp (s : State) : (s.countExecuted).sp = s.sp := rfl
@[simp] theorem State.countExecuted_stack (s : State) : (s.countExecuted).stack = s.stack := rfl
@[simp] theorem State.countExecuted_dt (s : State) : (s.countExecuted).dt = s.dt := rfl
@[simp] theorem State.countExecuted_st (s : State) : (s.countExecuted).st = s.st := rfl
@[simp] theorem State.countExecuted_mem (s : State) : (s.countExecuted).mem = s.mem := rfl
@[simp] theorem State.countExecuted_fb (s : State) : (s.countExecuted).fb = s.fb := rfl
@[simp] theorem State.countExecuted_key (s : State) : (s.countExecuted).key = s.key := rfl
@[simp] theorem State.countExecuted_run (s : State) : (s.countExecuted).run = s.run := rfl
@[simp] theorem State.countExecuted_bp (s : State) : (s.countExecuted).bp = s.bp := rfl
@[simp] theorem State.countExecuted_dis (s : State) : (s.countExecuted).dis = s.dis := rfl
@[simp] theorem State.countExecuted_prog (s : State) : (s.countExecuted).prog = s.prog := rfl
@[simp] theorem State.countExecuted_loaded (s : State) : (s.countExecuted).loaded = s.loaded := rfl
@[simp] theorem State.countExecuted_ips (s : State) : (s.countExecuted).ips = s.ips := rfl
@[simp] theorem State.countExecuted_t0 (s : State) : (s.countExecuted).t0 = s.t0 := rfl
@[simp] theorem State.countExecuted_executed (s : State) : (s.countExecuted).executed = s.executed + 1 := rfl
@[simp] theorem State.countExecuted_fault (s : State) : (s.countExecuted).fault = s.fault := rfl
@[simp] theorem State.countExecuted_randDraws (s : State) : (s.countExecuted).randDraws = s.randDraws := rfl
@[simp] theorem State.countExecuted_openDraws (s : State) : (s.countExecuted).openDraws = s.openDraws := rfl
@[simp] theorem State.countExecuted_inbox (s : State) : (s.countExecuted).inbox = s.inbox := rfl

/-- Reading a register after writing one (R20). -/
theorem State.getV_setV (s : State) (x y : Nibble) (b : Byte) :
    (s.setV x b).getV y = if x = y then b else s.getV y := by
  simp only [State.getV, State.setV, Vector.getElem_set, BitVec.toNat_inj]

@[simp] theorem State.getV_setV_same (s : State) (x : Nibble) (b : Byte) : (s.setV x b).getV x = b := by
  simp [State.getV_setV]

theorem State.getV_setV_other (s : State) {x y : Nibble} (b : Byte) (h : x ≠ y) :
    (s.setV x b).getV y = s.getV y := by
  simp [State.getV_setV, h]

/-- Two states with the same register file read the same registers. -/
theorem State.getV_congr {s t : State} (h : s.v = t.v) (x : Nibble) : s.getV x = t.getV x := by
  simp only [State.getV, h]

@[simp] theorem State.getV_advance (s : State) (x : Nibble) : s.advance.getV x = s.getV x := rfl
@[simp] theorem State.getV_rewind (s : State) (x : Nibble) : s.rewind.getV x = s.getV x := rfl
@[simp] theorem State.getV_setPc (s : State) (w : Word) (x : Nibble) : (s.setPc w).getV x = s.getV x := rfl
@[simp] theorem State.getV_setIdx (s : State) (w : Word) (x : Nibble) : (s.setIdx w).getV x = s.getV x := rfl
@[simp] theorem State.getV_setDt (s : State) (b : Byte) (x : Nibble) : (s.setDt b).getV x = s.getV x := rfl
@[simp] theorem State.getV_setSt (s : State) (b : Byte) (x : Nibble) : (s.setSt b).getV x = s.getV x := rfl
@[simp] theorem State.getV_setMem (s : State) (m : Memory) (x : Nibble) : (s.setMem m).getV x = s.getV x := rfl
@[simp] theorem State.getV_setFb (s : State) (f : Framebuffer) (x : Nibble) : (s.setFb f).getV x = s.getV x := rfl
@[simp] theorem State.getV_push (s : State) (w : Word) (x : Nibble) : (s.push w).getV x = s.getV x := rfl
@[simp] theorem State.getV_dropTop (s : State) (x : Nibble) : s.dropTop.getV x = s.getV x := rfl
@[simp] theorem State.getV_takeFault (s : State) (c : FaultCause) (x : Nibble) :
    (s.takeFault c).getV x = s.getV x := rfl

/-- `VF` after a flag write, and every other register (R21). -/
theorem State.getV_setFlag (s : State) (f : Byte) (x : Nibble) :
    (s.setFlag f).getV x = if x = 15 then f else s.getV x := by
  simp only [State.setFlag, State.getV_setV, eq_comm]

/-- The pointer after a skip: 2 more when the condition holds (R126). -/
theorem State.skipIf_pc (s : State) (c : Bool) : (s.skipIf c).pc = if c then s.pc + 2 else s.pc := by
  cases c <;> rfl

/-- A skip changes the pointer alone (R126). -/
theorem State.skipIf_eq (s : State) (c : Bool) : s.skipIf c = s.setPc (if c then s.pc + 2 else s.pc) := by
  cases c <;> rfl

/-- A skip after the advance: 4 in all when the condition holds, else 2 (R126, R190). -/
theorem State.advance_skipIf (s : State) (c : Bool) :
    s.advance.skipIf c = s.setPc (if c then s.pc + 4 else s.pc + 2) := by
  cases c
  · rfl
  · show State.setPc s (s.pc + 2 + 2) = State.setPc s (s.pc + 4)
    rw [BitVec.add_assoc]
    rfl

/-- Advancing and rewinding leaves the state (R195). -/
@[simp] theorem State.advance_rewind (s : State) : s.advance.rewind = s := by
  simp [State.advance, State.rewind]

end Sys2Proof.Machine
end

