-- ==== Sys2Proof/Laws/Ops.lean ====
section
/-! SUPPORT. One lemma per shared operation that says once everything it can do: the data range check, the key lines,
the breakpoint set, the end of a cycle, the driver's loop. -/

namespace Sys2Proof.Machine

/-- Zero extension keeps the number (R93). -/
@[simp] theorem toNat_zextAddr (nnn : Addr12) : (zextAddr nnn).toNat = nnn.toNat := by
  rw [zextAddr, BitVec.toNat_setWidth, Nat.mod_eq_of_lt (by omega)]

@[simp] theorem toNat_zextByte (b : Byte) : (zextByte b).toNat = b.toNat := by
  rw [zextByte, BitVec.toNat_setWidth, Nat.mod_eq_of_lt (by omega)]

/-- A flag as a number (R8). -/
@[simp] theorem toNat_flagByte (c : Bool) : (flagByte c).toNat = if c then 1 else 0 := by
  cases c <;> rfl

/-- A flag is 0 or 1 (R21). -/
theorem flagByte_eq (c : Bool) : flagByte c = 0 ∨ flagByte c = 1 := by
  cases c <;> simp [flagByte]

theorem flagByte_eq_one (c : Bool) : flagByte c = 1 ↔ c = true := by
  cases c <;> simp [flagByte]

/-- The range check passes exactly when no byte is accessed or the last one is at most `0xFFF` (R65). -/
theorem State.dataFault_eq_none (s : State) (n : Nat) :
    s.dataFault n = none ↔ n = 0 ∨ s.idx.toNat + n ≤ 0x1000 := by
  unfold State.dataFault
  split
  next h => exact ⟨fun h' => (by cases h'), fun h' => (by omega)⟩
  next h => exact ⟨fun _ => (by omega), fun _ => rfl⟩

/-- The fault the range check gives, and when (R65, R231). -/
theorem State.dataFault_eq_some (s : State) (n : Nat) (c : FaultCause) :
    s.dataFault n = some c ↔ n ≠ 0 ∧ 0x1000 < s.idx.toNat + n ∧ c = .dataOutOfRange (max s.idx.toNat 0x1000) := by
  unfold State.dataFault
  split
  next h =>
    rw [Option.some.injEq, eq_comm]
    exact ⟨fun h' => ⟨by omega, by omega, h'⟩, fun h' => h'.2.2⟩
  next h => exact ⟨fun h' => (by cases h'), fun h' => absurd ⟨by omega, by omega⟩ h⟩

/-- The keypad has a line for an index exactly below 16 (R28). -/
theorem State.keyLine?_eq_some (s : State) (k : Nat) (h : k < 16) : s.keyLine? k = some (s.key[k]'h) := by
  simp only [State.keyLine?, Vector.getElem?_eq_getElem (show k < Config.keyCount from h)]

theorem State.keyLine?_eq_none (s : State) (k : Nat) (h : 16 ≤ k) : s.keyLine? k = none := by
  simp only [State.keyLine?, Vector.getElem?_eq_none (show Config.keyCount ≤ k from h)]

/-- The scan over `0..n-1` finds the last pressed line (R195). -/
theorem lastKey_scan (s : State) (n : Nat) :
    match (List.range n).foldl (fun found k => if s.keyLine? k = some true then some k else found) none with
    | some k => k < n ∧ s.keyLine? k = some true ∧ ∀ j, k < j → j < n → s.keyLine? j ≠ some true
    | none => ∀ j < n, s.keyLine? j ≠ some true := by
  induction n with
  | zero => simp
  | succ n ih =>
    rw [List.range_succ, List.foldl_append, List.foldl_cons, List.foldl_nil]
    by_cases hn : s.keyLine? n = some true
    · rw [if_pos hn]
      exact ⟨by omega, hn, fun j h1 h2 => by omega⟩
    · rw [if_neg hn]
      revert ih
      generalize (List.range n).foldl _ none = r
      cases r with
      | none =>
        intro ih j hj
        rcases Nat.lt_succ_iff_lt_or_eq.1 hj with h | rfl
        · exact ih j h
        · exact hn
      | some k =>
        rintro ⟨h1, h2, h3⟩
        refine ⟨by omega, h2, fun j hkj hj => ?_⟩
        rcases Nat.lt_succ_iff_lt_or_eq.1 hj with h | rfl
        · exact h3 j hkj h
        · exact hn

/-- `LD Vx,K` finds the highest pressed line (R195). -/
theorem State.lastKey_eq_some (s : State) (k : Nat) (h : s.lastKey = some k) :
    k < 16 ∧ s.keyLine? k = some true ∧ ∀ j, k < j → j < 16 → s.keyLine? j ≠ some true := by
  have := lastKey_scan s Config.keyCount
  rw [show (List.range Config.keyCount).foldl _ none = s.lastKey from rfl, h] at this
  exact this

/-- `LD Vx,K` finds none exactly when no line is pressed (R195). -/
theorem State.lastKey_eq_none (s : State) (h : s.lastKey = none) : ∀ j < 16, s.keyLine? j ≠ some true := by
  have := lastKey_scan s Config.keyCount
  rw [show (List.range Config.keyCount).foldl _ none = s.lastKey from rfl, h] at this
  exact this

/-- The block store writes one register more than `X` (R213). -/
@[simp] theorem State.length_regsTo (s : State) (x : Nibble) : (s.regsTo x).length = x.toNat + 1 := by
  have : s.v.toList.length = 16 := s.v.length_toList
  rw [State.regsTo, List.length_take, this]
  omega

/-- Byte `r` of the block store is register `r` (R213). -/
theorem State.getD_regsTo (s : State) (x r : Nibble) (h : r ≤ x) : (s.regsTo x).getD r.toNat 0 = s.getV r := by
  have hr : r.toNat ≤ x.toNat := h
  rw [List.getD_eq_getElem _ _ (by rw [State.length_regsTo]; omega)]
  simp [State.regsTo, State.getV]

/-- The registers after a block load (R214). -/
theorem State.getV_loadRegsTo (s : State) (x r : Nibble) :
    (s.loadRegsTo x).getV r = if r ≤ x then Memory.read s.mem (s.idx.toNat + r.toNat) else s.getV r := by
  simp [State.loadRegsTo, State.getV, BitVec.le_def]

/-- The decimal digits of a byte are three (R212). -/
@[simp] theorem length_decimalDigits (b : Byte) : (decimalDigits b).length = 3 := rfl

theorem bpSorted_cons (a : Word) (l : List Word) :
    bpSorted (a :: l) = true ↔ (∀ b ∈ l, a < b) ∧ bpSorted l = true := by
  simp only [bpSorted, Bool.and_eq_true, List.all_eq_true, decide_eq_true_eq]

/-- The members of the set after adding one (R244). -/
theorem mem_bpInsert (a b : Word) (l : List Word) : b ∈ bpInsert a l ↔ b = a ∨ b ∈ l := by
  induction l with
  | nil => simp [bpInsert]
  | cons c l ih =>
    simp only [bpInsert]
    split
    · simp
    · split
      next h => subst h; simp
      next => simp only [List.mem_cons, ih]; tauto

/-- The members of the set after taking one out (R244). -/
theorem mem_bpErase (a b : Word) (l : List Word) : b ∈ bpErase a l ↔ b ≠ a ∧ b ∈ l := by
  simp [bpErase, and_comm]

/-- Adding keeps the set's one form (R30). -/
theorem bpSorted_insert (a : Word) (l : List Word) (h : bpSorted l = true) : bpSorted (bpInsert a l) = true := by
  induction l with
  | nil => rfl
  | cons c l ih =>
    obtain ⟨hc, hl⟩ := (bpSorted_cons c l).1 h
    simp only [bpInsert]
    split
    next hac =>
      refine (bpSorted_cons _ _).2 ⟨fun b hb => ?_, h⟩
      rcases List.mem_cons.1 hb with rfl | hb
      · exact hac
      · exact BitVec.lt_trans hac (hc b hb)
    next hac =>
      split
      next => exact h
      next hne =>
        refine (bpSorted_cons _ _).2 ⟨fun b hb => ?_, ih hl⟩
        rcases (mem_bpInsert a b l).1 hb with rfl | hb
        · rw [BitVec.lt_def] at hac ⊢
          have : b.toNat ≠ c.toNat := fun e => hne (BitVec.eq_of_toNat_eq e)
          omega
        · exact hc b hb

/-- Taking out keeps the set's one form (R30). -/
theorem bpSorted_erase (a : Word) (l : List Word) (h : bpSorted l = true) : bpSorted (bpErase a l) = true := by
  induction l with
  | nil => rfl
  | cons c l ih =>
    obtain ⟨hc, hl⟩ := (bpSorted_cons c l).1 h
    unfold bpErase at ih ⊢
    rw [List.filter_cons]
    split
    · exact (bpSorted_cons _ _).2 ⟨fun b hb => hc b (List.mem_of_mem_filter hb), ih hl⟩
    · exact ih hl

/-- Two sets in their one form with the same members are equal data (R30). -/
theorem bpSorted_ext (l m : List Word) (hl : bpSorted l = true) (hm : bpSorted m = true)
    (h : ∀ a, a ∈ l ↔ a ∈ m) : l = m := by
  induction l generalizing m with
  | nil =>
    cases m with
    | nil => rfl
    | cons b m => exact absurd ((h b).2 (by simp)) (by simp)
  | cons a l ih =>
    cases m with
    | nil => exact absurd ((h a).1 (by simp)) (by simp)
    | cons b m =>
      obtain ⟨ha, hl'⟩ := (bpSorted_cons a l).1 hl
      obtain ⟨hb, hm'⟩ := (bpSorted_cons b m).1 hm
      have irr : ∀ c : Word, ¬ c < c := fun c => BitVec.lt_irrefl c
      have hab : a = b := by
        rcases List.mem_cons.1 ((h a).1 (by simp)) with e | hma
        · exact e
        · rcases List.mem_cons.1 ((h b).2 (by simp)) with e | hlb
          · exact e.symm
          · exact absurd (BitVec.lt_trans (ha b hlb) (hb a hma)) (irr a)
      subst hab
      congr 1
      refine ih m hl' hm' fun c => ⟨fun hc => ?_, fun hc => ?_⟩
      · rcases List.mem_cons.1 ((h c).1 (by simp [hc])) with rfl | hc'
        · exact absurd (ha c hc) (irr c)
        · exact hc'
      · rcases List.mem_cons.1 ((h c).2 (by simp [hc])) with rfl | hc'
        · exact absurd (hb c hc) (irr c)
        · exact hc'

/-- The breakpoint check changes nothing but `RUN`, and only to false (R245). -/
theorem State.checkBreakpoint_eq (s : State) : s.checkBreakpoint = s.setRun (s.run && !s.bp.contains s.pc) := by
  unfold State.checkBreakpoint State.setRun
  split
  next h => rw [h]; simp
  next h => rw [Bool.not_eq_true] at h; rw [h, Bool.not_false, Bool.and_true]

/-- What the end of a cycle makes of a next state (R120, R232, R245). -/
theorem endCycle_next (t : State) :
    endCycle (.next t) = .next (if t.fault.isSome then t else t.checkBreakpoint) := rfl

/-- A next state after the end of a cycle comes from a next state of the instruction. -/
theorem endCycle_eq_next {o : Result} {t : State} (h : endCycle o = .next t) :
    ∃ u, o = .next u ∧ t = if u.fault.isSome then u else u.checkBreakpoint := by
  cases o with
  | next u => exact ⟨u, rfl, (Host.Outcome.next.inj h).symm⟩
  | fault r => cases h
  | refused r => cases h

/-- Everything a cycle that answers a next state can have done: taken the fetch fault, or run a decoded instruction
(R120). -/
theorem cycle_eq_next {s t : State} (h : cycle s = .next t) :
    s.loaded = true ∧ s.fault = none ∧
      ((0xFFE < s.pc.toNat ∧ t = s.takeFault (.fetchOutOfRange s.pc)) ∨
        (s.pc.toNat ≤ 0xFFE ∧ ∃ i u, decode (Memory.word s.mem s.pc.toNat) = .ok i ∧ exec i s = .next u ∧
          t = if u.fault.isSome then u else u.checkBreakpoint)) := by
  unfold cycle at h
  split at h
  · cases h
  next hl =>
    split at h
    · cases h
    next hf =>
      refine ⟨by simpa using hl, by simpa using hf, ?_⟩
      unfold State.fetchWord at h
      split at h
      next w hw =>
        split at hw
        · cases hw
        next hpc =>
          cases hw
          refine .inr ⟨by omega, ?_⟩
          unfold runWord at h
          split at h
          next i hi =>
            obtain ⟨u, hu, ht⟩ := endCycle_eq_next h
            exact ⟨i, u, hi, hu, ht⟩
          · cases h
      next hw =>
        split at hw
        next hpc => exact .inl ⟨hpc, (Host.Outcome.next.inj h).symm⟩
        · cases hw

/-- An invariant that every cycle keeps, and the driver's counting too, is kept by the driver's loop (R296, R297). -/
theorem driveLoop_keeps (P : State → Prop) (go : State → Bool) (count : State → State)
    (hcycle : ∀ s t, P s → cycle s = .next t → P t) (hcount : ∀ s, P s → P (count s)) (n : Nat) (s t : State)
    (hs : P s) (h : driveLoop go count n s = .next t) : P t := by
  induction n generalizing s with
  | zero => exact Host.Outcome.next.inj h ▸ hs
  | succ n ih =>
    rw [driveLoop] at h
    split at h
    · split at h
      next u hu =>
        split at h
        · exact Host.Outcome.next.inj h ▸ hcycle s u hs hu
        · exact ih _ (hcount _ (hcycle s u hs hu)) h
      · cases h
      · cases h
    · exact Host.Outcome.next.inj h ▸ hs

end Sys2Proof.Machine
end

