-- ==== Sys2Proof/Laws/Driver.lean ====
section
/-! SUPPORT. Everything a driver's loop can do (spec/70_reset_and_hazards.md R296, R297), in terms of the cycles it
executes. -/

namespace Sys2Proof.Machine

/-- A driver's loop that completes has executed some number `k` of counted cycles, at most `n`, and then ended: because
`n` were executed, because `go` no longer holds, because a fault is recorded, or with one more cycle that faulted. -/
theorem driveLoop_eq_next (go : State → Bool) (count : State → State) (n : Nat) (s t : State)
    (h : driveLoop go count n s = .next t) :
    ∃ k u, k ≤ n ∧ CyclesTo go count k s u ∧
      ((t = u ∧ (k = n ∨ go u = false ∨ u.fault ≠ none)) ∨
        (k < n ∧ u.fault = none ∧ go u = true ∧ cycle u = .next t ∧ t.fault ≠ none)) := by
  induction n generalizing s with
  | zero => exact ⟨0, s, Nat.le_refl _, rfl, .inl ⟨(Host.Outcome.next.inj h).symm, .inl rfl⟩⟩
  | succ n ih =>
    rw [driveLoop] at h
    split at h
    next hgo =>
      obtain ⟨hg, hf⟩ := Bool.and_eq_true_iff.1 hgo
      have hf : s.fault = none := Option.isNone_iff_eq_none.1 hf
      split at h
      next u hu =>
        split at h
        next hfu =>
          obtain rfl := Host.Outcome.next.inj h
          exact ⟨0, s, Nat.zero_le _, rfl, .inr ⟨Nat.succ_pos n, hf, hg, hu, Option.isSome_iff_ne_none.1 hfu⟩⟩
        next hfu =>
          obtain ⟨k, w, hk, hc, hend⟩ := ih (count u) h
          refine ⟨k + 1, w, Nat.succ_le_succ hk, ⟨hf, hg, u, hu, by simpa using hfu, hc⟩, ?_⟩
          rcases hend with ⟨ht, hend⟩ | ⟨hlt, hend⟩
          · exact .inl ⟨ht, hend.imp_left (congrArg Nat.succ)⟩
          · exact .inr ⟨Nat.succ_lt_succ hlt, hend⟩
      · cases h
      · cases h
    next hgo =>
      refine ⟨0, s, Nat.zero_le _, rfl, .inl ⟨(Host.Outcome.next.inj h).symm, .inr ?_⟩⟩
      by_cases hg : go s = true
      · exact .inr fun hf => hgo (by rw [hg, hf]; rfl)
      · exact .inl (Bool.not_eq_true _ ▸ hg)

end Sys2Proof.Machine
end

