-- ==== Sys2Proof/Laws/PerInstr.lean ====
section
/-! SUPPORT. The statements made per instruction. `TableRow`: the word the encoder writes matches the instruction's row
of the opcode map (spec/30_encoding.md R95), fixed bit by fixed bit. -/

namespace Sys2Proof.Laws

/-- The encoding of `i` matches its row: `word & mask = match` (R95). -/
def TableRow.Statement (i : Instr) : Prop := encode i &&& (tableRow i).1 = (tableRow i).2

/-- The family nibble of a format `A` word. -/
theorem formatA_mask (op : Nibble) (nnn : Addr12) : formatA op nnn &&& 0xF000 = formatA op 0 := by
  ext i h
  simp only [formatA, BitVec.getElem_and]
  interval_cases i <;> simp

/-- The family nibble of a format `XNN` word. -/
theorem formatXNN_mask (op x : Nibble) (nn : Byte) : formatXNN op x nn &&& 0xF000 = formatXNN op 0 0 := by
  ext i h
  simp only [formatXNN, BitVec.getElem_and]
  interval_cases i <;> simp

/-- The family nibble and the sub-opcode byte of a format `XKK` word. -/
theorem formatXNN_maskLow (op x : Nibble) (nn : Byte) : formatXNN op x nn &&& 0xF0FF = formatXNN op 0 nn := by
  ext i h
  simp only [formatXNN, BitVec.getElem_and]
  interval_cases i <;> simp

/-- The family nibble of a format `XYN` word. -/
theorem formatXYN_mask (op x y n : Nibble) : formatXYN op x y n &&& 0xF000 = formatXYN op 0 0 0 := by
  ext i h
  simp only [formatXYN, BitVec.getElem_and]
  interval_cases i <;> simp

/-- The family nibble and the sub-opcode nibble of a family 8 word. -/
theorem formatXYN_maskLow (op x y n : Nibble) : formatXYN op x y n &&& 0xF00F = formatXYN op 0 0 n := by
  ext i h
  simp only [formatXYN, BitVec.getElem_and]
  interval_cases i <;> simp

theorem TableRow.cls : TableRow.Statement .cls := rfl

theorem TableRow.ret : TableRow.Statement .ret := rfl

theorem TableRow.jp (nnn : Addr12) : TableRow.Statement (.jp nnn) :=
  (formatA_mask _ _).trans rfl

theorem TableRow.call (nnn : Addr12) : TableRow.Statement (.call nnn) :=
  (formatA_mask _ _).trans rfl

theorem TableRow.seImm (x : Nibble) (nn : Byte) : TableRow.Statement (.seImm x nn) :=
  (formatXNN_mask _ _ _).trans rfl

theorem TableRow.sneImm (x : Nibble) (nn : Byte) : TableRow.Statement (.sneImm x nn) :=
  (formatXNN_mask _ _ _).trans rfl

theorem TableRow.seReg (x : Nibble) (y : Nibble) : TableRow.Statement (.seReg x y) :=
  (formatXYN_mask _ _ _ _).trans rfl

theorem TableRow.sneReg (x : Nibble) (y : Nibble) : TableRow.Statement (.sneReg x y) :=
  (formatXYN_mask _ _ _ _).trans rfl

theorem TableRow.ldImm (x : Nibble) (nn : Byte) : TableRow.Statement (.ldImm x nn) :=
  (formatXNN_mask _ _ _).trans rfl

theorem TableRow.addImm (x : Nibble) (nn : Byte) : TableRow.Statement (.addImm x nn) :=
  (formatXNN_mask _ _ _).trans rfl

theorem TableRow.ldReg (x : Nibble) (y : Nibble) : TableRow.Statement (.ldReg x y) :=
  (formatXYN_maskLow _ _ _ _).trans rfl

theorem TableRow.orReg (x : Nibble) (y : Nibble) : TableRow.Statement (.orReg x y) :=
  (formatXYN_maskLow _ _ _ _).trans rfl

theorem TableRow.andReg (x : Nibble) (y : Nibble) : TableRow.Statement (.andReg x y) :=
  (formatXYN_maskLow _ _ _ _).trans rfl

theorem TableRow.xorReg (x : Nibble) (y : Nibble) : TableRow.Statement (.xorReg x y) :=
  (formatXYN_maskLow _ _ _ _).trans rfl

theorem TableRow.addReg (x : Nibble) (y : Nibble) : TableRow.Statement (.addReg x y) :=
  (formatXYN_maskLow _ _ _ _).trans rfl

theorem TableRow.sub (x : Nibble) (y : Nibble) : TableRow.Statement (.sub x y) :=
  (formatXYN_maskLow _ _ _ _).trans rfl

theorem TableRow.shr (x : Nibble) : TableRow.Statement (.shr x) :=
  (formatXYN_maskLow _ _ _ _).trans rfl

theorem TableRow.subn (x : Nibble) (y : Nibble) : TableRow.Statement (.subn x y) :=
  (formatXYN_maskLow _ _ _ _).trans rfl

theorem TableRow.shl (x : Nibble) : TableRow.Statement (.shl x) :=
  (formatXYN_maskLow _ _ _ _).trans rfl

theorem TableRow.ldI (nnn : Addr12) : TableRow.Statement (.ldI nnn) :=
  (formatA_mask _ _).trans rfl

theorem TableRow.jpV0 (nnn : Addr12) : TableRow.Statement (.jpV0 nnn) :=
  (formatA_mask _ _).trans rfl

theorem TableRow.rnd (x : Nibble) (nn : Byte) : TableRow.Statement (.rnd x nn) :=
  (formatXNN_mask _ _ _).trans rfl

theorem TableRow.drw (x : Nibble) (y : Nibble) (n : Nibble) : TableRow.Statement (.drw x y n) :=
  (formatXYN_mask _ _ _ _).trans rfl

theorem TableRow.skp (x : Nibble) : TableRow.Statement (.skp x) :=
  (formatXNN_maskLow _ _ _).trans rfl

theorem TableRow.sknp (x : Nibble) : TableRow.Statement (.sknp x) :=
  (formatXNN_maskLow _ _ _).trans rfl

theorem TableRow.ldVxDT (x : Nibble) : TableRow.Statement (.ldVxDT x) :=
  (formatXNN_maskLow _ _ _).trans rfl

theorem TableRow.ldDTVx (x : Nibble) : TableRow.Statement (.ldDTVx x) :=
  (formatXNN_maskLow _ _ _).trans rfl

theorem TableRow.ldSTVx (x : Nibble) : TableRow.Statement (.ldSTVx x) :=
  (formatXNN_maskLow _ _ _).trans rfl

theorem TableRow.ldVxK (x : Nibble) : TableRow.Statement (.ldVxK x) :=
  (formatXNN_maskLow _ _ _).trans rfl

theorem TableRow.addI (x : Nibble) : TableRow.Statement (.addI x) :=
  (formatXNN_maskLow _ _ _).trans rfl

theorem TableRow.ldF (x : Nibble) : TableRow.Statement (.ldF x) :=
  (formatXNN_maskLow _ _ _).trans rfl

theorem TableRow.ldB (x : Nibble) : TableRow.Statement (.ldB x) :=
  (formatXNN_maskLow _ _ _).trans rfl

theorem TableRow.stBlock (x : Nibble) : TableRow.Statement (.stBlock x) :=
  (formatXNN_maskLow _ _ _).trans rfl

theorem TableRow.ldBlock (x : Nibble) : TableRow.Statement (.ldBlock x) :=
  (formatXNN_maskLow _ _ _).trans rfl

theorem TableRow.nop : TableRow.Statement .nop := rfl

end Sys2Proof.Laws
end

