-- ==== Sys2Proof/Tests/Slice0.lean ====
section
/-! SUPPORT. The model's own tests, their expected results from spec/95_test_vectors.md (section numbers in the
comments), and for every statement with hypotheses a state and operands that meet them. -/

namespace Sys2Proof.Tests

open Sys2Proof Sys2Proof.Machine

/-- The instruction a word decodes to, if it decodes. -/
def reads (w : Word) : Option Instr := (decode w).toOption

/-- `s` with the listed registers written. -/
def withV (l : List (Nibble × Byte)) (s : State) : State := l.foldl (fun t p => t.setV p.1 p.2) s

/-- `s` with bytes stored at `a`. -/
def withMem (a : Nat) (bs : List Byte) (s : State) : State := { s with mem := Memory.writeBytes s.mem a bs }

/-- `s` with one key down. -/
def withKey (k : Fin 16) (s : State) : State := { s with key := s.key.set k true }

/-- `s` with one cell set. -/
def withCell (x y : Nat) (s : State) : State := { s with fb := s.fb.toggle x y }

/-- The state after reset with the registers listed. -/
def regs (l : List (Nibble × Byte)) : State := withV l State.reset

/-- A state with `I` and the registers listed. -/
def regsI (i : Word) (l : List (Nibble × Byte)) : State := { regs l with idx := i }

/-- The state after one cycle of the word `w` at the pointer of `s`. -/
def after (w : Nat) (s : State) : Option State := nextState? (step (s.withFetchWord 16 w))

/-- One register after one cycle. -/
def vAfter (w : Nat) (s : State) (r : Nibble) : Option Byte := (after w s).map fun t => t.getV r

/-- The pointer after one cycle. -/
def pcAfter (w : Nat) (s : State) : Option Word := (after w s).map State.pc

/-- The fault record after one cycle: code, address, info (R231). -/
def faultAfter (w : Nat) (s : State) : Option (Nat × Nat × List Nat) :=
  (after w s).bind fun t => t.fault.map fun r => (r.cause.code, r.address.toNat, r.cause.info)

/-- The bytes at `a` after one cycle. -/
def memAfter (w : Nat) (s : State) (a n : Nat) : Option (List Byte) := (after w s).map fun t => Memory.readBytes t.mem a n

/-! ### Well-formedness: no operand is ever ill formed; words can be (R91, R93, R98, R100) -/

theorem test_every_operand_is_legal : (Instr.drw 15 15 15).wellFormed = true ∧ (Instr.ldImm 15 0xFF).wellFormed = true ∧
    (Instr.jp 0xFFF).wellFormed = true := by decide

theorem test_wellFormed_refuses_ignored_nibble_of_skips : canonicalWord 0x5120 = true ∧ canonicalWord 0x5121 = false ∧
    canonicalWord 0x9120 = true ∧ canonicalWord 0x912F = false := by decide

theorem test_wellFormed_refuses_ignored_nibble_of_family_0 : canonicalWord 0x00E0 = true ∧
    canonicalWord 0x0FE0 = false ∧ canonicalWord 0x00EE = true ∧ canonicalWord 0x0FEE = false := by decide

theorem test_wellFormed_refuses_ignored_nibble_of_shifts : canonicalWord 0x8106 = true ∧ canonicalWord 0x81F6 = false ∧
    canonicalWord 0x810E = true ∧ canonicalWord 0x812E = false := by decide

theorem test_wellFormed_refuses_unmapped_words : canonicalWord 0x8008 = false ∧ canonicalWord 0xF1FF = false ∧
    canonicalWord 0xE100 = false ∧ canonicalWord 0x0123 = false := by decide

theorem test_wellFormed_refuses_ambiguous_words : canonicalWord 0x0000 = false ∧ canonicalWord 0xE111 = false := by
  decide

/-! ### Decoding: words of section 2.1, every constructor at least once -/

theorem test_decode_family_0 : reads 0x00E0 = some .cls ∧ reads 0x01E0 = some .cls ∧ reads 0x00EE = some .ret ∧
    reads 0x0FEE = some .ret ∧ reads 0x00E1 = some .nop ∧ reads 0x0FFF = some .nop := by decide

theorem test_decode_ambiguous : reads 0x0000 = none ∧ reads 0x000E = none ∧ reads 0x00FE = none ∧
    reads 0xE10E = none ∧ reads 0xE1FE = none ∧ reads 0xE111 = none ∧ reads 0xE101 = none := by decide

theorem test_decode_fixed_keys :
    (decodeWith (some .nibble) none 0x0000).toOption = some .cls ∧
    (decodeWith (some .byte) none 0x0000).toOption = some .nop ∧
    (decodeWith none (some .nibble) 0xE111).toOption = some (.sknp 1) ∧
    (decodeWith none (some .byte) 0xE1FE).toOption = some .nop := by decide

theorem test_decode_jumps : reads 0x1ABC = some (.jp 0xABC) ∧ reads 0x2ABC = some (.call 0xABC) ∧
    reads 0xBABC = some (.jpV0 0xABC) ∧ reads 0xA300 = some (.ldI 0x300) := by decide

theorem test_decode_skips : reads 0x3001 = some (.seImm 0 1) ∧ reads 0x4307 = some (.sneImm 3 7) ∧
    reads 0x512F = some (.seReg 1 2) ∧ reads 0x912F = some (.sneReg 1 2) := by decide

theorem test_decode_literals : reads 0x6A05 = some (.ldImm 0xA 5) ∧ reads 0x7002 = some (.addImm 0 2) ∧
    reads 0xC30F = some (.rnd 3 0x0F) := by decide

theorem test_decode_alu : reads 0x8120 = some (.ldReg 1 2) ∧ reads 0x8121 = some (.orReg 1 2) ∧
    reads 0x8122 = some (.andReg 1 2) ∧ reads 0x8123 = some (.xorReg 1 2) ∧ reads 0x8124 = some (.addReg 1 2) := by
  decide

theorem test_decode_alu_and_shifts : reads 0x8125 = some (.sub 1 2) ∧ reads 0x81F6 = some (.shr 1) ∧
    reads 0x8127 = some (.subn 1 2) ∧ reads 0x812E = some (.shl 1) := by decide

theorem test_decode_unmapped_8 : reads 0x8128 = some .nop ∧ reads 0x8129 = some .nop ∧ reads 0x812A = some .nop ∧
    reads 0x812D = some .nop ∧ reads 0x812F = some .nop := by decide

theorem test_decode_draw_and_keys : reads 0xD125 = some (.drw 1 2 5) ∧ reads 0xE19E = some (.skp 1) ∧
    reads 0xE1A1 = some (.sknp 1) ∧ reads 0xE1A2 = some .nop ∧ reads 0xE19F = some .nop ∧ reads 0xE100 = some .nop := by
  decide

theorem test_decode_family_F : reads 0xF107 = some (.ldVxDT 1) ∧ reads 0xF10A = some (.ldVxK 1) ∧
    reads 0xF115 = some (.ldDTVx 1) ∧ reads 0xF118 = some (.ldSTVx 1) ∧ reads 0xF11E = some (.addI 1) := by decide

theorem test_decode_family_F_memory : reads 0xF129 = some (.ldF 1) ∧ reads 0xF133 = some (.ldB 1) ∧
    reads 0xF155 = some (.stBlock 1) ∧ reads 0xF165 = some (.ldBlock 1) := by decide

theorem test_decode_unmapped_F : reads 0xF1FF = some .nop ∧ reads 0xF175 = some .nop ∧ reads 0xF185 = some .nop ∧
    reads 0xF100 = some .nop ∧ reads 0xF105 = some .nop ∧ reads 0xF11F = some .nop := by decide

theorem test_table_word_is_big_endian : decodeTableWord 16 0x6A05 = some (.ldImm 0xA 5) ∧
    decodeTableWord 16 0x00E0 = some .cls ∧ decodeTableWord 16 0 = none := by decide

theorem test_bytes_are_taken_in_pairs :
    (decodeBytes [0x12, 0x04, 0x99]).toOption = some (.jp 0x204, [0x99]) ∧ (decodeBytes [0x12]).toOption = none := by
  decide

/-! ### Control transfer and skips (section 2.2) -/

theorem test_nop : after 0x8009 State.reset = some { State.reset.withFetchWord 16 0x8009 with pc := 0x202 } := by decide

theorem test_cls : (after 0x00E0 (withCell 1 1 State.reset)).map (fun t => (Framebuffer.cell t.fb 1 1, t.pc)) =
    some (false, 0x202) := by decide

theorem test_ret : (after 0x00EE { State.reset with sp := 1, stack := State.reset.stack.set 0 0x206 }).map
    (fun t => (t.sp, t.pc, t.stack[0])) = some (0, 0x206, 0x206) := by decide

theorem test_ret_underflow : faultAfter 0x00EE State.reset = some (2, 0x200, []) ∧
    pcAfter 0x00EE State.reset = some 0x200 := by decide

theorem test_jp : pcAfter 0x1204 State.reset = some 0x204 ∧ pcAfter 0x1FFF State.reset = some 0xFFF := by decide

theorem test_jp_from_last_word : pcAfter 0x1200 { State.reset with pc := 0xFFE } = some 0x200 := by decide

theorem test_call : (after 0x220A { State.reset with pc := 0x204 }).map (fun t => (t.stack[0], t.sp, t.pc)) =
    some (0x206, 1, 0x20A) := by decide

theorem test_call_overflow : faultAfter 0x2ABC { State.reset with sp := 15, run := true } = some (1, 0x200, [15]) ∧
    (after 0x2ABC { State.reset with sp := 15, run := true }).map (fun t => (t.pc, t.sp, t.run)) =
      some (0x200, 15, false) := by decide

theorem test_seImm : pcAfter 0x3000 State.reset = some 0x204 ∧ pcAfter 0x3001 State.reset = some 0x202 := by decide

theorem test_sneImm : pcAfter 0x4307 (regs [(3, 7)]) = some 0x202 ∧ pcAfter 0x4308 (regs [(3, 7)]) = some 0x204 := by
  decide

theorem test_seReg : pcAfter 0x5127 (regs [(1, 9), (2, 9)]) = some 0x204 ∧
    pcAfter 0x5127 (regs [(1, 9), (2, 8)]) = some 0x202 := by decide

theorem test_sneReg : pcAfter 0x9120 (regs [(1, 9), (2, 8)]) = some 0x204 ∧ pcAfter 0x911F (regs [(1, 9)]) = some 0x202 := by
  decide

/-! ### Literal moves and ALU (section 2.3) -/

theorem test_ldImm : vAfter 0x6A05 State.reset 0xA = some 5 ∧ vAfter 0x6FFF State.reset 0xF = some 0xFF := by decide

theorem test_addImm_wraps_without_flag : vAfter 0x7002 (regs [(0, 0xFF)]) 0 = some 1 ∧
    vAfter 0x7002 (regs [(0, 0xFF)]) 15 = some 0 := by decide

theorem test_ldReg : vAfter 0x8120 (regs [(2, 0x33)]) 1 = some 0x33 := by decide

theorem test_orReg : vAfter 0x8121 (regs [(1, 0xF0), (2, 0x0F), (15, 7)]) 1 = some 0xFF ∧
    vAfter 0x8121 (regs [(1, 0xF0), (2, 0x0F), (15, 7)]) 15 = some 7 := by decide

theorem test_andReg : vAfter 0x8122 (regs [(1, 0xF0), (2, 0x3C)]) 1 = some 0x30 := by decide

theorem test_xorReg : vAfter 0x8123 (regs [(1, 0xF0), (2, 0x3C)]) 1 = some 0xCC := by decide

theorem test_addReg_carry : vAfter 0x8124 (regs [(1, 200), (2, 100)]) 1 = some 44 ∧
    vAfter 0x8124 (regs [(1, 200), (2, 100)]) 15 = some 1 := by decide

theorem test_addReg_flag_as_operand : vAfter 0x8F14 (regs [(15, 200), (1, 100)]) 15 = some 101 ∧
    vAfter 0x81F4 (regs [(1, 10), (15, 250)]) 1 = some 11 := by decide

theorem test_sub_borrow : vAfter 0x8125 (regs [(1, 5), (2, 10)]) 1 = some 0xFB ∧
    vAfter 0x8125 (regs [(1, 5), (2, 10)]) 15 = some 0 ∧ vAfter 0x8125 (regs [(1, 7), (2, 7)]) 15 = some 1 := by decide

theorem test_sub_flag_as_operand : vAfter 0x8F15 (regs [(15, 3), (1, 5)]) 15 = some 0xFB ∧
    vAfter 0x81F5 (regs [(1, 10), (15, 3)]) 1 = some 9 := by decide

theorem test_shr : vAfter 0x8126 (regs [(1, 4), (2, 0xFF)]) 1 = some 2 ∧
    vAfter 0x8126 (regs [(1, 4), (2, 0xFF)]) 15 = some 0 ∧ vAfter 0x8106 (regs [(1, 5)]) 15 = some 1 := by decide

theorem test_shr_of_the_flag : vAfter 0x8F06 (regs [(15, 0xFF)]) 15 = some 0 := by decide

theorem test_subn : vAfter 0x8127 (regs [(1, 10), (2, 5)]) 1 = some 0xFB ∧
    vAfter 0x8127 (regs [(1, 10), (2, 5)]) 15 = some 0 ∧ vAfter 0x8127 (regs [(1, 10), (2, 5)]) 2 = some 5 := by decide

theorem test_subn_flag_as_operand : vAfter 0x8F17 (regs [(15, 3), (1, 5)]) 15 = some 4 ∧
    vAfter 0x81F7 (regs [(1, 10), (15, 3)]) 1 = some 0xF6 := by decide

theorem test_shl : vAfter 0x810E (regs [(1, 0x81)]) 1 = some 2 ∧ vAfter 0x810E (regs [(1, 0x81)]) 15 = some 1 := by decide

theorem test_shl_of_the_flag : vAfter 0x8F0E (regs [(15, 0x80)]) 15 = some 2 ∧
    vAfter 0x8F0E (regs [(15, 0x7F)]) 15 = some 0 := by decide

/-! ### Index, indexed jump, random, draw (section 2.4) -/

theorem test_ldI : (after 0xAFFF State.reset).map State.idx = some 0xFFF := by decide

theorem test_jpV0_is_not_reduced : pcAfter 0xBFFF (regs [(0, 0xFF)]) = some 0x10FE ∧
    pcAfter 0xB2FF (regs [(0, 2)]) = some 0x301 := by decide

theorem test_rnd_masks_the_draw : vAfter 0xC300 (regs [(3, 9)]) 3 = some 0 ∧
    (after 0xC300 State.reset).map State.randDraws = some 1 := ⟨by
      show some (0#8 &&& Config.randByte 0) = some 0
      exact congrArg some BitVec.zero_and, by rfl⟩

theorem test_drw : (after 0xD011 (withMem 0x300 [0xC3] (regsI 0x300 [(0, 10), (1, 5)]))).map (fun t =>
    ([9, 10, 11, 12, 15, 16, 17, 18].map fun x => Framebuffer.cell t.fb x 5, t.getV 15)) =
    some ([false, true, true, false, false, true, true, false], 0) := by decide

theorem test_drw_off_the_grid : faultAfter 0xD011 (withMem 0x300 [0xFF] (regsI 0x300 [(0, 57), (1, 3)])) =
    some (5, 0x200, [64, 3]) ∧ faultAfter 0xD012 (regsI 0xFFF []) = some (4, 0x200, [0x1000]) := by decide

/-! ### Keys and timers (section 2.5) -/

theorem test_skp : pcAfter 0xE29E (withKey 10 (regs [(2, 10)])) = some 0x204 ∧
    pcAfter 0xE29E (regs [(2, 10)]) = some 0x202 := by decide

theorem test_skp_fault : faultAfter 0xE29E (regs [(2, 16)]) = some (6, 0x200, [16]) := by decide

theorem test_sknp : pcAfter 0xE2A1 (withKey 10 (regs [(2, 10)])) = some 0x202 ∧
    pcAfter 0xE2A1 (regs [(2, 10)]) = some 0x204 := by decide

theorem test_sknp_fault : faultAfter 0xE2A1 (regs [(2, 0xFF)]) = some (6, 0x200, [255]) := by decide

theorem test_ldVxK_takes_the_highest : vAfter 0xF50A (withKey 3 (withKey 9 State.reset)) 5 = some 9 := by decide

theorem test_ldVxK_waits : (after 0xF50A (regs [(5, 0x77)])).map (fun t => (t.pc, t.getV 5)) = some (0x200, 0x77) := by
  decide

theorem test_ldVxDT : vAfter 0xF207 { State.reset with dt := 0x3C } 2 = some 0x3C := by decide

theorem test_ldDTVx : (after 0xF115 (regs [(1, 0x3C)])).map (fun t => (t.dt, t.st)) = some (60, 0) := by decide

theorem test_ldSTVx : (after 0xF118 (regs [(1, 5)])).map (fun t => (t.dt, t.st)) = some (0, 5) := by decide

/-! ### Index arithmetic and memory (section 2.6) -/

theorem test_addI : (after 0xF11E (regsI 0xFFE [(1, 3)])).map (fun t => (t.idx, t.getV 15)) = some (0x1001, 1) ∧
    (after 0xF11E (regsI 0xFF0 [(1, 15)])).map (fun t => (t.idx, t.getV 15)) = some (0xFFF, 0) := by decide

theorem test_addI_wraps_and_reads_the_flag :
    (after 0xF11E (regsI 0xFFFF [(1, 1)])).map (fun t => (t.idx, t.getV 15)) = some (0, 1) ∧
    (after 0xFF1E (regsI 0xFFF [(15, 5)])).map (fun t => (t.idx, t.getV 15)) = some (0x1000, 1) := by decide

theorem test_ldF : (after 0xF029 (regs [(0, 0x0A)])).map State.idx = some 0x32 ∧
    (after 0xF029 (regs [(0, 0xFF)])).map State.idx = some 0x4FB := by decide

theorem test_ldB : memAfter 0xF033 (regsI 0x300 [(0, 254)]) 0x300 3 = some [2, 5, 4] ∧
    memAfter 0xF033 (regsI 0xFFD [(0, 7)]) 0xFFD 3 = some [0, 0, 7] := by decide

theorem test_ldB_fault : faultAfter 0xF033 (regsI 0xFFE []) = some (4, 0x200, [0x1000]) ∧
    faultAfter 0xF033 (regsI 0x1001 []) = some (4, 0x200, [0x1001]) := by decide

theorem test_stBlock : memAfter 0xF155 (regsI 0x400 [(0, 1), (1, 2), (2, 3)]) 0x3FF 4 = some [0, 1, 2, 0] ∧
    (after 0xF155 (regsI 0x400 [])).map State.idx = some 0x400 := by decide

theorem test_stBlock_fault : faultAfter 0xFF55 (regsI 0xFF1 []) = some (4, 0x200, [0x1000]) := by decide

theorem test_ldBlock : (after 0xF265 (withMem 0x300 [2, 5, 4] (regsI 0x300 [(3, 9)]))).map
    (fun t => ([0, 1, 2, 3].map t.getV, t.idx)) = some ([2, 5, 4, 9], 0x300) := by decide

theorem test_ldBlock_fault : faultAfter 0xF165 (regsI 0xFFF []) = some (4, 0x200, [0x1000]) := by decide

/-! ### Host operations (sections 2.5 and 2.7) -/

theorem test_fetch_fault : ((nextState? (step { State.reset with pc := 0xFFF })).bind State.fault) =
    some ⟨.fetchOutOfRange 0xFFF, 0xFFF⟩ := by decide

theorem test_tick : (nextState? (timerTick { State.reset with run := true, dt := 2 })).map (fun t => (t.dt, t.st)) =
    some (1, 0) ∧ (nextState? (timerTick { State.reset with dt := 2 })).map State.dt = some 2 := by decide

theorem test_setKey_outside : nextState? (setKey 16 true State.reset) = none := by decide

theorem test_toggle_breakpoint : (nextState? (toggleBreakpoint State.reset)).map State.bp = some [0x200] := by decide

theorem test_breakpoint_stops_at_the_target :
    (after 0x1204 { State.reset with run := true, bp := [0x204] }).map State.run = some false ∧
    (after 0x1204 { State.reset with run := true, bp := [0x200] }).map State.run = some true := by decide

theorem test_owed_cycles : owedCycles 4000 State.reset = 2 ∧ owedCycles 1999 State.reset = 0 ∧
    owedCycles 10000 { State.reset with ips := 700 } = 7 := by decide

theorem test_load_copies_and_lists : Memory.readBytes (imageMemory [0x00, 0xE0, 0x6A]) 0x200 4 = [0x00, 0xE0, 0x6A, 0x00] ∧
    listing (imageMemory [0x00, 0xE0, 0x6A]) 3 = ["200: CLS", "202: LD VA,0x00"] := by decide

theorem test_disasm_of_data : disasm 0xC381 0x20C = "20C: RND V3,0x81" := by decide

/-! ### The hypotheses of the statements are met: one witness for each, at the edges of its ranges -/

/-- A running machine about to run a word. -/
def running (w : Nat) (s : State) : State := { s with run := true }.withFetchWord 16 w

/-- A machine that has taken a fault. -/
def faulted : State := { State.reset with fault := some ⟨.stackUnderflow, 0x200⟩ }

/-- The machine before its first load. -/
def powerOn : State := { State.reset with loaded := false }

theorem meets_DecodeOfEncode : (Instr.drw 15 0 15).wellFormed = true := by decide

theorem meets_FixedKeysDecodeEveryWord : ¬ambiguousWord 0x1234 ∧ (ambiguousWord 0x0000 ∧ fieldOp 0x0000 = 0x0) ∧
    (ambiguousWord 0x00FE ∧ fieldOp 0x00FE = 0x0) ∧ (ambiguousWord 0xE111 ∧ fieldOp 0xE111 = 0xE) := by
  unfold ambiguousWord
  decide

theorem meets_WordsPartition : ¬ambiguousWord 0x00E0 ∧ ¬ambiguousWord 0xE1A1 ∧ unmappedWord 0x8009 := by
  unfold ambiguousWord unmappedWord
  decide

theorem meets_CanonicalWordsRoundTrip : canonicalWord 0xF165 = true ∧ Instr.cls ≠ .nop := by decide

theorem meets_MatchingWordDecodesToItsRow : Instr.seReg 1 2 ≠ .nop ∧
    (0x512F : Word) &&& (tableRow (.seReg 1 2)).1 = (tableRow (.seReg 1 2)).2 := by decide

theorem meets_StepRunsDecodedInstruction : let s := { State.reset with pc := 0xFFE }.withFetchWord 16 0x6A05
    (s.inbox = [] ∧ s.loaded = true ∧ s.fault = none ∧ s.pc.toNat ≤ 0xFFE) ∧
    decode (((Memory.read s.mem s.pc.toNat).setWidth 16 <<< 8) |||
      (Memory.read s.mem (s.pc.toNat + 1)).setWidth 16) = .ok (.ldImm 0xA 5) := ⟨by decide, by rfl⟩

theorem meets_FetchOutOfRangeFaults : let s := { State.reset with pc := 0xFFF }
    s.inbox = [] ∧ s.loaded = true ∧ s.fault = none ∧ 0xFFE < s.pc.toNat := by decide

theorem meets_StepRefusesExactly : powerOn.inbox = [] ∧ nextState? (step powerOn) = none ∧
    faulted.inbox = [] ∧ faulted.loaded = true ∧ nextState? (step faulted) = none ∧
    State.reset.inbox = [] ∧ State.reset.pc.toNat ≤ 0xFFE ∧
    (decode (Memory.word State.reset.mem State.reset.pc.toNat)).toOption = none := by decide

theorem meets_WaitingEventComesFirst : { State.reset with inbox := [.stop, .timerTick] }.inbox = [.stop, .timerTick] := by
  decide

theorem meets_RetPopsOrUnderflows : State.reset.sp = 0 ∧
    { State.reset with sp := 1 }.sp.toNat = (0 : Fin 16).val + 1 ∧
    { State.reset with sp := 16 }.sp.toNat = (15 : Fin 16).val + 1 := by decide

theorem meets_CallPushesOrOverflows : 15 ≤ { State.reset with sp := 15 }.sp.toNat ∧
    { State.reset with sp := 14 }.sp.toNat < 15 := by decide

theorem meets_RetUndoesCall : { State.reset with sp := 14 }.sp.toNat < 15 ∧
    (nextState? (exec (.call 0xABC) { State.reset with sp := 14 })).isSome = true := by decide

theorem meets_FlagAsOperand : (14 : Nibble) ≠ 15 := by decide

theorem meets_RandomIsMasked : (15 : Nibble) ≠ 3 := by decide

theorem meets_DrawSprite_dataFault : 1 ≤ (2 : Nibble).toNat ∧ 0xFFF < (regsI 0xFFF []).idx.toNat + (2 : Nibble).toNat - 1 := by
  decide

/-- Row 1 has its one set bit at column 7, row 32: off the grid; the bits before it, at (0,31), are on it. -/
theorem meets_DrawSprite_displayFault : let s := withMem 0x300 [0x80, 0x01] (regsI 0x300 [(1, 31)])
    (s.idx.toNat + (2 : Nibble).toNat - 1 ≤ 0xFFF ∧ s.rowBit 1 7 ∧ 31 < (s.getV 1).toNat + 1) ∧
    ∀ r' c', r' < 2 → c' < 8 → (r' < 1 ∨ (r' = 1 ∧ c' < 7)) → s.rowBit r' c' →
      (s.getV 0).toNat + c' ≤ 63 ∧ (s.getV 1).toNat + r' ≤ 31 := by
  have bits : ∀ r' < 2, ∀ c' < 8, (withMem 0x300 [0x80, 0x01] (regsI 0x300 [(1, 31)])).rowBit r' c' →
      (r' = 0 ∧ c' = 0) ∨ (r' = 1 ∧ c' = 7) := by
    unfold State.rowBit
    decide
  refine ⟨⟨by decide, by unfold State.rowBit; decide, by decide⟩, fun r' c' hr hc hb h => ?_⟩
  rcases bits r' hr c' hc h with ⟨rfl, rfl⟩ | ⟨rfl, rfl⟩
  · decide
  · omega

/-- The sprite's set bits fall on columns 57..63 of row 31, the last columns and row of the grid. -/
theorem meets_DrawSprite_draws : let s := withMem 0xFFF [0xFE] (regsI 0xFFF [(0, 57), (1, 31)])
    s.idx.toNat + (1 : Nibble).toNat - 1 ≤ 0xFFF ∧ ∀ p, s.spriteBit 0 1 1 p → p.1 ≤ 63 ∧ p.2 ≤ 31 := by
  have key : ∀ r < 1, ∀ c < 8, (withMem 0xFFF [0xFE] (regsI 0xFFF [(0, 57), (1, 31)])).rowBit r c →
      57 + c ≤ 63 ∧ 31 + r ≤ 31 := by
    unfold State.rowBit
    decide
  refine ⟨by decide, ?_⟩
  rintro p ⟨r, hr, c, hc, hb, rfl⟩
  exact key r hr c hc hb

/-- `N = 0`: no row, whatever `I` is. -/
theorem meets_DrawSprite_no_rows : let s := regsI 0x2000 [(0, 200), (1, 200)]
    (0 : Nibble) = 0 ∧ ∀ p, s.spriteBit 0 1 0 p → p.1 ≤ 63 ∧ p.2 ≤ 31 := by
  refine ⟨rfl, ?_⟩
  rintro p ⟨r, hr, -⟩
  exact absurd hr (Nat.not_lt_zero r)

theorem meets_DrawTwiceRestores : let s := withMem 0x300 [0xC3] (regsI 0x300 [(0, 10), (1, 5)])
    (0 : Nibble) ≠ 15 ∧ (1 : Nibble) ≠ 15 ∧ s.fault = none ∧
    (nextState? (exec (.drw 0 1 1) s)).map State.fault = some none := by decide

theorem meets_KeySkips : ((regs [(2, 15)]).getV 2).toNat = (15 : Fin 16).val ∧ (State.reset.getV 2).toNat = (0 : Fin 16).val ∧
    15 < ((regs [(2, 16)]).getV 2).toNat := by decide

theorem meets_WaitForKey : let s := withKey 3 (withKey 9 State.reset)
    s.key[(9 : Fin 16)] = true ∧ (∀ j : Fin 16, 9 < j → s.key[j] = false) ∧
    ∀ k : Fin 16, State.reset.key[k] = false := by decide

theorem meets_DecimalStore : Memory.wf (withMem 0x300 [1, 2] State.reset).mem = true ∧
    0xFFF < (regsI 0xFFE []).idx.toNat + 2 ∧ (regsI 0xFFD []).idx.toNat + 2 ≤ 0xFFF := by decide

theorem meets_BlockStore : Memory.wf State.reset.mem = true ∧ 0xFFF < (regsI 0xFF1 []).idx.toNat + (15 : Nibble).toNat ∧
    (regsI 0xFF0 []).idx.toNat + (15 : Nibble).toNat ≤ 0xFFF ∧ (14 : Nibble) ≤ 15 := by decide

theorem meets_BlockLoad : 0xFFF < (regsI 0x1000 []).idx.toNat + (0 : Nibble).toNat ∧
    (regsI 0xFFF []).idx.toNat + (0 : Nibble).toNat ≤ 0xFFF ∧ (0 : Nibble) < 15 := by decide

theorem meets_EveryInstructionAnswersNext : { State.reset with sp := 16 }.sp.toNat ≤ 16 ∧ Instr.cls ≠ .ret ∧
    16 < { State.reset with sp := 17 }.sp.toNat := by decide

theorem meets_InstructionFrame : Memory.wf (regsI 0x400 []).mem = true ∧
    (nextState? (exec (.stBlock 1) (regsI 0x400 []))).isSome = true ∧
    (Instr.writesReg 0 (.stBlock 1) = false ∧ Instr.writesIdx (.stBlock 1) = false) ∧
    Instr.usesStack (.stBlock 1) = false ∧ Instr.writesFb (.stBlock 1) = false := by decide

theorem meets_PointerAdvances : State.reset.fault = none ∧ Instr.steersPc (.ldI 5) = false ∧
    (nextState? (exec (.ldI 5) State.reset)).map State.fault = some none ∧
    (nextState? (exec (.ldVxK 1) State.reset)).map State.fault = some none ∧
    (nextState? (exec (.skp 1) State.reset)).map State.fault = some none := by decide

theorem meets_FlagIsZeroOrOne : Instr.writesFlag (.sub 14 15) = true ∧ Instr.namesDest 15 (.sub 14 15) = false ∧
    (nextState? (exec (.sub 14 15) State.reset)).map State.fault = some none := by decide

theorem meets_FaultTable :
    (nextState? (exec (.call 0) { State.reset with sp := 15 })).bind State.fault = some ⟨.stackOverflow 15, 0x200⟩ ∧
    (nextState? (exec .ret State.reset)).bind State.fault = some ⟨.stackUnderflow, 0x200⟩ ∧
    (nextState? (exec (.ldB 0) (regsI 0xFFE []))).bind State.fault = some ⟨.dataOutOfRange 0x1000, 0x200⟩ ∧
    (nextState? (exec (.skp 0) (regs [(0, 16)]))).bind State.fault = some ⟨.keyIndexOutOfRange 16, 0x200⟩ ∧
    (nextState? (exec (.drw 0 1 1) (regs [(0, 63)]))).bind State.fault = some ⟨.displayOutOfRange 64 0, 0x200⟩ := by
  decide

theorem meets_FaultsArePrecise : let s := running 0x00EE State.reset
    s.inbox = [] ∧ s.fault = none ∧ (nextState? (step s)).bind State.fault = some ⟨.stackUnderflow, 0x200⟩ := by decide

theorem meets_DebugStateIsInvisible : let s := running 0x1204 State.reset
    let t := { s with run := false, bp := [0x204], ips := 7, executed := 3 }
    s.inbox = [] ∧ t.inbox = [] ∧ s.loaded = t.loaded ∧ s.programView = t.programView := by decide

theorem meets_JumpToSelfIsAnEnd : let s := running 0x1200 State.reset
    (s.inbox = [] ∧ s.loaded = true ∧ s.fault = none ∧ s.pc.toNat = (0x200 : Addr12).toNat ∧ s.pc.toNat ≤ 0xFFE) ∧
    decode (Memory.word s.mem s.pc.toNat) = .ok (.jp 0x200) := ⟨by decide, by rfl⟩

theorem meets_LoadInstallsProgram : (List.replicate 3584 (0 : Byte)).length ≤ 3584 := by
  rw [List.length_replicate]

theorem meets_TooLargeChangesNothing : 3584 < (List.replicate 3585 (0 : Byte)).length := by
  rw [List.length_replicate]
  omega

theorem meets_StartAndStop : State.reset.loaded = true ∧ State.reset.fault = none ∧
    (faulted.loaded = true ∧ faulted.fault ≠ none) ∧ powerOn.loaded = false := by decide

theorem meets_SingleStepIsOneCycle : State.reset.loaded = true ∧ State.reset.fault = none ∧ State.reset.inbox = [] ∧
    (faulted.loaded = true ∧ faulted.fault ≠ none) ∧ powerOn.loaded = false := by decide

theorem meets_SetKeyWritesOneLine : (nextState? (setKey 15 true State.reset)).isSome = true ∧
    (nextState? (setKey 16 true State.reset)).isSome = false := by decide

theorem meets_ToggleTwiceRestoresBreakpoints : let s := { State.reset with bp := [0x1FF, 0x200] }
    (s.loaded = true ∧ bpSorted s.bp = true ∧ s.pc ∈ s.bp) ∧
    (State.reset.loaded = true ∧ bpSorted State.reset.bp = true ∧ State.reset.pc ∉ State.reset.bp) := by decide

theorem meets_TickCountsDownWhileRunning : (running 0x1200 State.reset).run = true ∧ State.reset.run = false := by decide

theorem meets_SpeedChangesResetThePacer :
    Config.speedMin + Config.speedStep ≤ { State.reset with ips := Config.speedMin + Config.speedStep }.ips ∧
    { State.reset with ips := 0 }.ips < Config.speedMin + Config.speedStep :=
  ⟨Nat.le_refl _, Nat.succ_pos _⟩

theorem meets_CatchUpExecutesWhatIsOwed : let s := running 0x1200 State.reset
    s.loaded = true ∧ s.fault = none ∧ 2 = (4000 - s.t0) / (1000000 / s.ips) ∧
    (nextState? (applyEvent (.catchUp 4000) s)).map (fun t => (t.executed, t.run)) = some (2, true) ∧
    State.reset.run = false := by decide

/-- `EXEC` above what is owed: the call completes and executes nothing. -/
theorem meets_CatchUpExecutesWhatIsOwed_nothing_owed : let s := { running 0x1200 State.reset with executed := 5 }
    s.loaded = true ∧ s.fault = none ∧ 2 ≤ s.executed ∧
    (nextState? (applyEvent (.catchUp 4000) s)).map State.executed = some 5 := by decide

/-- The one cycle owed faults: `EXEC` stays and `RUN` is false. -/
theorem meets_CatchUpExecutesWhatIsOwed_fault : let s := running 0x00EE State.reset
    s.loaded = true ∧ s.fault = none ∧
    (nextState? (applyEvent (.catchUp 4000) s)).map (fun t => (t.executed, t.run, t.pc)) = some (0, false, 0x200) := by
  decide

theorem meets_CatchUpRefusalsAndExample : powerOn.loaded = false ∧ { State.reset with ips := 0 }.ips = 0 ∧
    1000000 < { State.reset with ips := 1000001 }.ips ∧ State.reset.ips = 500 := by decide

/-- `ExecuteForDuration` completes on the jump to its own address, however many cycles fit. -/
theorem meets_WarpResetsThePacer :
    ∃ t, applyEvent (.executeForDuration 9 1) (running 0x1200 State.reset) = .next t := by
  have loop : ∀ (b : Bool) (n : Nat) (s : State), cycle s = .next s → s.fault = none → warpLoop b n s = .next s := by
    intro b n s hs hf
    induction n with
    | zero => rfl
    | succ n ih =>
      unfold warpLoop at ih ⊢
      rw [driveLoop]
      split
      · rw [hs]
        simpa [hf] using ih
      · rfl
  refine ⟨(running 0x1200 State.reset).warpStart 9, ?_⟩
  exact loop _ _ _ (by rfl) (by rfl)

theorem meets_WarpResetsThePacer_loop : let s := running 0x1200 State.reset
    ((nextState? (warpLoop true 2 s)).map (fun t => (t.fault, t.run)) = some (none, true) ∧ warpCount true 2 s = 2) ∧
    ((nextState? (warpLoop false 2 (s.setRun false))).map (fun t => (t.fault, t.run)) = some (none, false) ∧
      warpCount false 2 (s.setRun false) = 2) ∧
    State.reset.run = false ∧ powerOn.loaded = false := by decide

theorem meets_OnlyLoadLeavesAFault : faulted.loaded = true ∧ faulted.fault ≠ none ∧ faulted.run = false ∧
    (nextState? (applyEvent (.setKey 3 true) faulted)).isSome = true := by decide

theorem meets_OtherEventsLeaveProgramState : (nextState? (applyEvent .toggleBreakpoint State.reset)).isSome = true := by
  decide

theorem meets_StepKeepsInvariant : (running 0xF155 State.reset).Inv ∧
    (nextState? (step (running 0xF155 State.reset))).isSome = true := by
  refine ⟨⟨?_, ?_, ?_, ?_, ?_, ?_, ?_, ?_, ?_⟩, ?_⟩ <;> decide

end Sys2Proof.Tests
end

section
/-! PROOFS. What an instruction can do to the state, said once (`Effect`, `exec_effect`), and the statements of
spec/10_state.md derived from it: the frame, the pointer, the flag, the reset, the invariant. -/

namespace Sys2Proof.Machine

/-! ### What an instruction can do -/

/-- The six skips (R126 to R129, R190, R191). -/
def Instr.isSkip : Instr → Bool
  | .seImm _ _ | .sneImm _ _ | .seReg _ _ | .sneReg _ _ | .skp _ | .sknp _ => true
  | _ => false

/-- `Effect s i t`: `t` is a state the instruction `i` can leave of `s`, by the shape of the update. Instructions that
update the state in one shape share a constructor, with what the shape does not show as a premise; a value that the
statements below do not depend on (a literal, a sum, a drawn byte, the cause of a fault) is left free. -/
inductive Effect (s : State) : Instr → State → Prop
  | fault {i : Instr} (c : FaultCause) : Effect s i (s.takeFault c)
  | nop : Effect s .nop s.advance
  | cls : Effect s .cls (s.advance.setFb Framebuffer.blank)
  | ret (w : Word) (hsp : s.sp ≠ 0) (hw : s.stack[(s.sp - 1).toNat]? = some w) : Effect s .ret (s.dropTop.setPc w)
  | jp (nnn : Addr12) : Effect s (.jp nnn) (s.setPc (zextAddr nnn))
  | jpV0 (nnn : Addr12) : Effect s (.jpV0 nnn) (s.setPc (zextAddr nnn + zextByte (s.getV 0)))
  | call (nnn : Addr12) (hsp : s.sp.toNat < 15) :
      Effect s (.call nnn) ((s.push s.advance.pc).setPc (zextAddr nnn))
  | skip {i : Instr} (c : Bool) (hi : Instr.isSkip i = true) :
      Effect s i (s.setPc (if c then s.pc + 4 else s.pc + 2))
  | wait (x : Nibble) : Effect s (.ldVxK x) s
  | regWrite {i : Instr} (x : Nibble) (b : Byte) (hx : Instr.namesDest x i = true)
      (hf : Instr.writesFlag i = false) : Effect s i (s.advance.setV x b)
  | rnd (x : Nibble) (nn b : Byte) :
      Effect s (.rnd x nn) ({ s.advance with randDraws := s.randDraws + 1 }.setV x b)
  | flagAlu {i : Instr} (x : Nibble) (f : Byte) (result : State → Byte) (hx : Instr.namesDest x i = true)
      (hi : Instr.writesFlag i = true) (hf : f = 0 ∨ f = 1) : Effect s i (s.advance.flagThenResult f x result)
  | idxWrite {i : Instr} (w : Word) (hw : Instr.writesIdx i = true) (hf : Instr.writesFlag i = false) :
      Effect s i (s.advance.setIdx w)
  | addI (x : Nibble) (c : Bool) (w : Word) : Effect s (.addI x) ((s.advance.setFlag (flagByte c)).setIdx w)
  | drw (x y n : Nibble) (c : Bool) (fb : Framebuffer) :
      Effect s (.drw x y n) ((s.advance.setFlag (flagByte c)).setFb fb)
  | ldDTVx (x : Nibble) (b : Byte) : Effect s (.ldDTVx x) (s.advance.setDt b)
  | ldSTVx (x : Nibble) (b : Byte) : Effect s (.ldSTVx x) (s.advance.setSt b)
  | store {i : Instr} (bs : List Byte) (hlen : bs.length = Instr.storedCount i)
      (hfit : s.idx.toNat + bs.length ≤ 4096) (hf : Instr.writesFlag i = false) :
      Effect s i (s.advance.setMem (Memory.writeBytes s.mem s.idx.toNat bs))
  | ldBlock (x : Nibble) (regs : Vector Byte Config.regCount) (hregs : regs = (s.loadRegsTo x).v) :
      Effect s (.ldBlock x) { s.advance with v := regs }

/-- The bit a right shift shifts out is 0 or 1 (R148). -/
theorem shrFlag_eq (a : Byte) : shrFlag a = 0 ∨ shrFlag a = 1 := by
  have : (shrFlag a).toNat ≤ 1 := by
    rw [shrFlag, BitVec.toNat_and]
    exact Nat.and_le_right
  bv_omega

/-- The bit a left shift shifts out is 0 or 1 (R150). -/
theorem shlFlag_eq (a : Byte) : shlFlag a = 0 ∨ shlFlag a = 1 := by
  have : (shlFlag a).toNat ≤ 1 := by
    rw [shlFlag, BitVec.toNat_ushiftRight, Nat.shiftRight_eq_div_pow]
    omega
  bv_omega

section
variable {s t : State}

/-- A skip goes 4 bytes on when its condition holds, else 2 (R126, R190). -/
theorem skipIf_effect {i : Instr} (c : Bool) (hi : Instr.isSkip i = true) : Effect s i (s.advance.skipIf c) := by
  rw [State.advance_skipIf]
  exact .skip c hi

theorem execRet_effect (h : execRet s = .next t) : Effect s .ret t := by
  unfold execRet at h
  split at h
  · cases h; exact .fault _
  next hsp =>
    split at h
    next w hw => cases h; exact .ret w hsp hw
    next => cases h

theorem execCall_effect (nnn : Addr12) (h : execCall nnn s = .next t) : Effect s (.call nnn) t := by
  unfold execCall at h
  split at h
  · cases h; exact .fault _
  next hsp => cases h; exact .call nnn (by omega)

theorem execDrw_effect (x y n : Nibble) (h : execDrw x y n s = .next t) : Effect s (.drw x y n) t := by
  unfold execDrw at h
  split at h
  · cases h; exact .fault _
  · split at h
    · cases h; exact .fault _
    · cases h; exact .drw x y n _ _

theorem execSkp_effect (x : Nibble) (h : execSkp x s = .next t) : Effect s (.skp x) t := by
  unfold execSkp at h
  split at h
  · cases h; exact skipIf_effect _ rfl
  · cases h; exact .fault _

theorem execSknp_effect (x : Nibble) (h : execSknp x s = .next t) : Effect s (.sknp x) t := by
  unfold execSknp at h
  split at h
  · cases h; exact skipIf_effect _ rfl
  · cases h; exact .fault _

theorem execLdVxK_effect (x : Nibble) (h : execLdVxK x s = .next t) : Effect s (.ldVxK x) t := by
  unfold execLdVxK at h
  split at h
  · cases h; exact .regWrite _ _ (beq_self_eq_true x) rfl
  · cases h; rw [State.advance_rewind]; exact .wait x

theorem execLdB_effect (x : Nibble) (h : execLdB x s = .next t) : Effect s (.ldB x) t := by
  unfold execLdB at h
  split at h
  · cases h; exact .fault _
  next hd =>
    cases h
    have hfit := (s.dataFault_eq_none _).1 hd
    exact .store _ (length_decimalDigits _) (by rw [length_decimalDigits]; omega) rfl

theorem execStBlock_effect (x : Nibble) (h : execStBlock x s = .next t) : Effect s (.stBlock x) t := by
  unfold execStBlock at h
  split at h
  · cases h; exact .fault _
  next hd =>
    cases h
    have hfit := (s.dataFault_eq_none _).1 hd
    exact .store _ (s.length_regsTo x) (by rw [State.length_regsTo]; omega) rfl

theorem execLdBlock_effect (x : Nibble) (h : execLdBlock x s = .next t) : Effect s (.ldBlock x) t := by
  unfold execLdBlock at h
  split at h
  · cases h; exact .fault _
  · obtain rfl := Host.Outcome.next.inj h
    exact .ldBlock x _ rfl

end

/-- Everything an instruction that answers a next state can have done (R120). -/
theorem exec_effect {i : Instr} {s t : State} (h : exec i s = .next t) : Effect s i t := by
  cases i with
  | nop => cases h; exact .nop
  | cls => cases h; exact .cls
  | ret => exact execRet_effect h
  | jp nnn => cases h; exact .jp nnn
  | jpV0 nnn => cases h; exact .jpV0 nnn
  | call nnn => exact execCall_effect nnn h
  | skp x => exact execSkp_effect x h
  | sknp x => exact execSknp_effect x h
  | ldVxK x => exact execLdVxK_effect x h
  | rnd x nn => cases h; exact .rnd x nn _
  | ldI nnn => cases h; exact .idxWrite _ rfl rfl
  | ldF x => cases h; exact .idxWrite _ rfl rfl
  | addI x => cases h; exact .addI x _ _
  | drw x y n => exact execDrw_effect x y n h
  | ldDTVx x => cases h; exact .ldDTVx x _
  | ldSTVx x => cases h; exact .ldSTVx x _
  | ldB x => exact execLdB_effect x h
  | stBlock x => exact execStBlock_effect x h
  | ldBlock x => exact execLdBlock_effect x h
  | seImm | sneImm | seReg | sneReg => cases h; exact skipIf_effect _ rfl
  | ldImm x | addImm x | ldReg x | orReg x | andReg x | xorReg x | ldVxDT x =>
    cases h; exact .regWrite x _ (beq_self_eq_true x) rfl
  | addReg x | sub x | subn x => cases h; exact .flagAlu x _ _ (beq_self_eq_true x) rfl (flagByte_eq _)
  | shr x => cases h; exact .flagAlu x _ _ (beq_self_eq_true x) rfl (shrFlag_eq _)
  | shl x => cases h; exact .flagAlu x _ _ (beq_self_eq_true x) rfl (shlFlag_eq _)

/-! ### What every instruction leaves unchanged -/

theorem Instr.writesFlag_of_isSkip {i : Instr} (h : Instr.isSkip i = true) : Instr.writesFlag i = false := by
  cases i with
  | seImm | sneImm | seReg | sneReg | skp | sknp => rfl
  | _ => cases h

theorem Instr.steersPc_of_isSkip {i : Instr} (h : Instr.isSkip i = true) : Instr.steersPc i = true := by
  cases i with
  | seImm | sneImm | seReg | sneReg | skp | sknp => rfl
  | _ => cases h

/-- A register an instruction does not write is not its destination (R20). -/
theorem Instr.ne_dest {i : Instr} {r x : Nibble} (hr : Instr.writesReg r i = false)
    (hx : Instr.namesDest x i = true) : r ≠ x := by
  rintro rfl
  simp [Instr.writesReg, hx] at hr

/-- A register a flag-writing instruction does not write is not `VF` (R21). -/
theorem Instr.ne_flag {i : Instr} {r : Nibble} (hr : Instr.writesReg r i = false)
    (hi : Instr.writesFlag i = true) : r ≠ 15 := by
  rintro rfl
  simp [Instr.writesReg, hi] at hr

/-- The registers after a flag-writing operation of family 8 (R146 to R151). -/
theorem State.getV_flagThenResult (s : State) (f : Byte) (x r : Nibble) (result : State → Byte) :
    (s.flagThenResult f x result).getV r =
      if x = r then result (s.setFlag f) else if r = 15 then f else s.getV r := by
  rw [State.flagThenResult, State.getV_setV, State.getV_setFlag]

section
variable {s t : State} {i : Instr}

/-- An instruction leaves every register it does not write (R20, R21). -/
theorem Effect.getV_eq (h : Effect s i t) (r : Nibble) (hr : Instr.writesReg r i = false) : t.getV r = s.getV r := by
  cases h with
  | regWrite x b hx => rw [State.getV_setV_other _ _ (Instr.ne_dest hr hx).symm, State.getV_advance]
  | rnd x nn b => exact State.getV_setV_other _ _ (Instr.ne_dest hr (beq_self_eq_true x)).symm
  | flagAlu x f result hx hi =>
    rw [State.getV_flagThenResult, if_neg (Instr.ne_dest hr hx).symm, if_neg (Instr.ne_flag hr hi),
      State.getV_advance]
  | addI x => rw [State.getV_setIdx, State.getV_setFlag, if_neg (Instr.ne_flag hr rfl), State.getV_advance]
  | drw x => rw [State.getV_setFb, State.getV_setFlag, if_neg (Instr.ne_flag hr rfl), State.getV_advance]
  | ldBlock x regs hregs =>
    have hrx : ¬r ≤ x := fun hle => by simp [Instr.writesReg, Instr.namesDest, hle] at hr
    rw [State.getV_congr (t := s.loadRegsTo x) hregs, State.getV_loadRegsTo, if_neg hrx]
  | _ => rfl

/-- An instruction leaves every byte of memory outside those it stores (R63, R212, R213). -/
theorem Effect.read_eq (h : Effect s i t) (hwf : Memory.wf s.mem = true) (a : Nat)
    (ha : ¬(s.idx.toNat ≤ a ∧ a < s.idx.toNat + Instr.storedCount i)) :
    Memory.read t.mem a = Memory.read s.mem a := by
  cases h with
  | store bs hlen hfit => exact Memory.read_writeBytes_outside bs _ _ a hwf hfit (hlen ▸ ha)
  | _ => rfl

/-- Memory stays in its canonical form (log 22). -/
theorem Effect.wf_mem (h : Effect s i t) (hwf : Memory.wf s.mem = true) : Memory.wf t.mem = true := by
  cases h with
  | store bs => exact Memory.wf_writeBytes bs _ _ hwf
  | _ => exact hwf

/-- `I` is written by `LD I`, `ADD I` and `LD F` alone (R22). -/
theorem Effect.idx_eq (h : Effect s i t) (hi : Instr.writesIdx i = false) : t.idx = s.idx := by
  cases h with
  | idxWrite w hw => rw [hi] at hw; cases hw
  | addI => cases hi
  | _ => rfl

/-- The stack and its pointer are written by `CALL` and `RET` alone (R24). -/
theorem Effect.stack_eq (h : Effect s i t) (hi : Instr.usesStack i = false) : t.sp = s.sp ∧ t.stack = s.stack := by
  cases h with
  | ret | call => cases hi
  | _ => exact ⟨rfl, rfl⟩

/-- `RET` pops an entry and leaves its value in place (R24, R123). -/
theorem Effect.ret_stack_eq (h : Effect s i t) (hi : i = .ret) : t.stack = s.stack := by
  subst hi
  cases h with
  | _ => rfl

/-- The framebuffer is written by `CLS` and `DRW` alone (R27). -/
theorem Effect.fb_eq (h : Effect s i t) (hi : Instr.writesFb i = false) : t.fb = s.fb := by
  cases h with
  | cls | drw => cases hi
  | _ => rfl

/-- The delay timer is written by `LD DT,Vx` alone (R25). -/
theorem Effect.dt_eq (h : Effect s i t) (hi : ∀ x, i ≠ .ldDTVx x) : t.dt = s.dt := by
  cases h with
  | ldDTVx x => exact absurd rfl (hi x)
  | _ => rfl

/-- The sound timer is written by `LD ST,Vx` alone (R25). -/
theorem Effect.st_eq (h : Effect s i t) (hi : ∀ x, i ≠ .ldSTVx x) : t.st = s.st := by
  cases h with
  | ldSTVx x => exact absurd rfl (hi x)
  | _ => rfl

/-- `RND` alone draws a byte (R172; log 7). -/
theorem Effect.randDraws_eq (h : Effect s i t) (hi : ∀ x nn, i ≠ .rnd x nn) : t.randDraws = s.randDraws := by
  cases h with
  | rnd x nn => exact absurd rfl (hi x nn)
  | _ => rfl

/-- No instruction changes the keypad, the breakpoints, the listing, the metadata, the pacing state, the events. -/
theorem Effect.host_state_eq (h : Effect s i t) :
    t.key = s.key ∧ t.bp = s.bp ∧ t.dis = s.dis ∧ t.prog = s.prog ∧ t.loaded = s.loaded ∧ t.ips = s.ips ∧
      t.t0 = s.t0 ∧ t.executed = s.executed ∧ t.openDraws = s.openDraws ∧ t.inbox = s.inbox := by
  cases h with
  | _ => exact ⟨rfl, rfl, rfl, rfl, rfl, rfl, rfl, rfl, rfl, rfl⟩

/-- The fault record and `RUN` change only together, by a fault (R232). -/
theorem Effect.fault_run (h : Effect s i t) :
    t.fault = s.fault ∧ t.run = s.run ∨ t.fault ≠ none ∧ t.run = false := by
  cases h with
  | fault c => exact .inr ⟨Option.some_ne_none _, rfl⟩
  | _ => exact .inl ⟨rfl, rfl⟩

end

/-- Settles O36: each part of the frame holds of every effect an instruction can have. -/
theorem instructionFrame : Obligations.InstructionFrame := by
  intro i s t hwf h
  have he := exec_effect h
  obtain ⟨hkey, hbp, hdis, hprog, hloaded, hips, ht0, hexecuted, hdraws, hinbox⟩ := he.host_state_eq
  exact ⟨he.getV_eq, he.read_eq hwf, he.idx_eq, he.stack_eq, he.ret_stack_eq, he.fb_eq, he.dt_eq,
    he.st_eq, he.randDraws_eq, hkey, hbp, hdis, hprog, hloaded, hips, ht0, hexecuted, hdraws, hinbox, he.fault_run⟩

/-! ### The pointer and the flag -/

/-- An instruction that neither faults nor steers the pointer advances it by 2 (R23). -/
theorem Effect.pc_eq {s t : State} {i : Instr} (h : Effect s i t) (hf : t.fault = none)
    (hi : Instr.steersPc i = false) : t.pc = s.pc + 2 := by
  cases h with
  | fault c => cases hf
  | skip c hs => rw [Instr.steersPc_of_isSkip hs] at hi; cases hi
  | ret | jp | jpV0 | call | wait => cases hi
  | _ => rfl

/-- A wait for a key advances the pointer by 2, or leaves it (R195). -/
theorem Effect.wait_pc {s t : State} {x : Nibble} (h : Effect s (.ldVxK x) t) :
    t.pc = s.pc + 2 ∨ t.pc = s.pc := by
  cases h with
  | fault | wait => exact .inr rfl
  | skip c hs => cases hs
  | _ => exact .inl rfl

/-- A skip that does not fault advances the pointer by 2 or by 4 (R126, R190). -/
theorem Effect.skip_pc {s t : State} {i : Instr} (h : Effect s i t) (hf : t.fault = none)
    (hi : Instr.isSkip i = true) : t.pc = s.pc + 2 ∨ t.pc = s.pc + 4 := by
  cases h with
  | fault c => cases hf
  | skip c => cases c; exacts [.inl rfl, .inr rfl]
  | ret | jp | jpV0 | call | wait => cases hi
  | _ => exact .inl rfl

/-- Settles O37, from what every effect does to the pointer. -/
theorem pointerAdvances : Obligations.PointerAdvances := by
  intro i s t _ h hf
  have he := exec_effect h
  refine ⟨he.pc_eq hf, ?_, fun hi => he.skip_pc hf ?_⟩
  · rintro ⟨x, rfl⟩
    exact he.wait_pc
  · obtain ⟨x, nn, rfl | rfl⟩ | ⟨x, y, rfl | rfl⟩ | ⟨x, rfl | rfl⟩ := hi <;> rfl

/-- Settles O38: the flag of a flag-writing effect is 0 or 1, and the result goes to a register other than `VF`. -/
theorem flagIsZeroOrOne : Obligations.FlagIsZeroOrOne := by
  intro i s t _ hi hd h hf
  cases exec_effect h with
  | fault c => cases hf
  | flagAlu x f result hx _ hflag =>
    have hx15 : x ≠ 15 := by rintro rfl; rw [hd] at hx; cases hx
    rwa [State.getV_flagThenResult, if_neg hx15, if_pos rfl]
  | addI x c => rw [State.getV_setIdx, State.getV_setFlag, if_pos rfl]; exact flagByte_eq c
  | drw x y n c => rw [State.getV_setFb, State.getV_setFlag, if_pos rfl]; exact flagByte_eq c
  | skip c hs => rw [Instr.writesFlag_of_isSkip hs] at hi; cases hi
  | regWrite _ _ _ hn | idxWrite _ _ hn | store _ _ _ hn => rw [hn] at hi; cases hi
  | _ => cases hi

/-! ### Reset -/

/-- Every register is 0 at reset (R39). -/
theorem getV_reset (r : Nibble) : State.reset.getV r = 0 := by
  simp [State.getV, State.reset]

/-- Above the font an unlisted byte reads as zero (R26, R39). -/
theorem Memory.initial_above_font (a : Nat) (h : 80 ≤ a) : Memory.initial a = 0 :=
  List.getD_eq_default font 0 h

/-- Settles O43: each value is read off the reset state; registers, font and blank grid by their own lemmas. -/
theorem resetValues : Obligations.ResetValues := by
  exact ⟨getV_reset, rfl, rfl, rfl, by decide, rfl, rfl, fun _ _ => rfl,
    fun a ha _ => Memory.initial_above_font a ha, Framebuffer.cell_blank, by decide, rfl, rfl, rfl, rfl, rfl, rfl,
    rfl, rfl⟩

/-- Settles O59: the bounds are facts about the literal fields of the reset state. -/
theorem resetMeetsInvariant : Obligations.ResetMeetsInvariant where
  memory := Memory.wf_nil
  breakpoints := rfl
  stackPointer := by decide
  pointer := by decide
  returns := by decide
  lastEntry := by decide
  running := fun h => by cases h
  listed := rfl
  fits := by decide

/-! ### The invariant -/

section
variable {s t : State} {i : Instr}

/-- Fault entry keeps the invariant (R232). -/
theorem State.Inv.takeFault (h : s.Inv) (c : FaultCause) : (s.takeFault c).Inv :=
  { h with running := fun hr => by cases hr }

/-- Clearing `RUN`, or leaving it, keeps the invariant. -/
theorem State.Inv.setRun (h : s.Inv) (b : Bool) (hb : b = true → s.run = true) : (s.setRun b).Inv :=
  { h with running := fun hr => h.running (hb hr) }

/-- The breakpoint check keeps the invariant (R245). -/
theorem State.Inv.checkBreakpoint (h : s.Inv) : s.checkBreakpoint.Inv := by
  rw [State.checkBreakpoint_eq]
  exact h.setRun _ fun hb => (Bool.and_eq_true_iff.1 hb).1

/-- A return address popped from the stack is at most `0x1000` (R24). -/
theorem State.Inv.returns_le (h : s.Inv) {k : Nat} {w : Word} (hw : s.stack[k]? = some w) : w.toNat ≤ 0x1000 := by
  obtain ⟨hk, rfl⟩ := Vector.getElem?_eq_some_iff.1 hw
  exact h.returns ⟨k, hk⟩

/-- After an instruction that was fetched the pointer is at most `0x10FE`: the fall through and the skip end at most at
`0x1002`, the indexed jump at `0xFFF + 0xFF` (R23). -/
theorem Effect.pc_le (he : Effect s i t) (h : s.Inv) (hpc : s.pc.toNat ≤ 0xFFE) : t.pc.toNat ≤ 0x10FE := by
  have hadv : (s.pc + 2).toNat ≤ 0x10FE := by bv_omega
  cases he with
  | fault | wait => exact h.pointer
  | ret w _ hw => exact (h.returns_le hw).trans (by decide)
  | jp nnn | call nnn =>
    rw [State.setPc_pc, toNat_zextAddr]
    omega
  | jpV0 nnn =>
    rw [State.setPc_pc, BitVec.toNat_add, toNat_zextAddr, toNat_zextByte]
    omega
  | skip c =>
    rw [State.setPc_pc]
    split
    · bv_omega
    · exact hadv
  | _ => exact hadv

/-- An instruction keeps the stack pointer in `[0,16)` (R24). -/
theorem Effect.sp_lt (he : Effect s i t) (h : s.sp.toNat < 16) : t.sp.toNat < 16 := by
  cases he with
  | ret w hsp => rw [State.setPc_sp, State.dropTop_sp]; bv_omega
  | call nnn hsp => rw [State.setPc_sp, State.push_sp]; bv_omega
  | _ => exact h

/-- The stack changes only below `STACK[15]`, by a `CALL` that pushes the advanced pointer (R24, R125). -/
theorem Effect.stack_cases (he : Effect s i t) :
    t.stack = s.stack ∨ s.sp.toNat < 15 ∧ t.stack = s.stack.setIfInBounds s.sp.toNat (s.pc + 2) := by
  cases he with
  | call nnn hsp => exact .inr ⟨hsp, rfl⟩
  | _ => exact .inl rfl

theorem Effect.returns_le (he : Effect s i t) (h : s.Inv) (hpc : s.pc.toNat ≤ 0xFFE) (k : Fin 16) :
    t.stack[k].toNat ≤ 0x1000 := by
  obtain hst | ⟨-, hst⟩ := he.stack_cases
  · rw [hst]; exact h.returns k
  · simp only [hst, Fin.getElem_fin, Vector.getElem_setIfInBounds]
    split
    · bv_omega
    · exact h.returns k

theorem Effect.lastEntry_eq (he : Effect s i t) (h : s.Inv) : t.stack[15] = 0 := by
  obtain hst | ⟨hsp, hst⟩ := he.stack_cases
  · rw [hst]; exact h.lastEntry
  · simp only [hst, Vector.getElem_setIfInBounds, if_neg (show s.sp.toNat ≠ 15 by omega)]
    exact h.lastEntry

/-- An instruction that was fetched keeps the invariant. -/
theorem State.Inv.exec (h : s.Inv) (hpc : s.pc.toNat ≤ 0xFFE) (hx : exec i s = .next t) : t.Inv := by
  have he := exec_effect hx
  obtain ⟨-, hbp, hdis, hprog, hloaded, -⟩ := he.host_state_eq
  exact {
    memory := he.wf_mem h.memory
    breakpoints := hbp ▸ h.breakpoints
    stackPointer := he.sp_lt h.stackPointer
    pointer := he.pc_le h hpc
    returns := he.returns_le h hpc
    lastEntry := he.lastEntry_eq h
    running := fun hr => by
      obtain ⟨hf, hrun⟩ | ⟨-, hrun⟩ := he.fault_run
      · rw [hloaded, hf]; exact h.running (hrun ▸ hr)
      · rw [hrun] at hr; cases hr
    listed := by rw [hdis, hprog]; exact h.listed
    fits := hprog ▸ h.fits }

/-- A cycle keeps the invariant (R120). -/
theorem State.Inv.cycle (h : s.Inv) (hc : cycle s = .next t) : t.Inv := by
  obtain ⟨-, -, ⟨-, rfl⟩ | ⟨hpc, i, u, -, hu, rfl⟩⟩ := cycle_eq_next hc
  · exact h.takeFault _
  · have hu := h.exec hpc hu
    split
    · exact hu
    · exact hu.checkBreakpoint

/-- A load of an image that fits establishes the invariant, whatever state it is given (R280, R281). -/
theorem State.installed_inv (s : State) (image : List Byte) (name path : String)
    (hfit : image.length ≤ Config.maxProg) : (s.installed image name path).Inv :=
  { resetMeetsInvariant with
    memory := Memory.wf_writeBytes _ _ _ Memory.wf_nil
    running := fun hr => by cases hr
    listed := by simp [State.installed, listing]
    fits := hfit }

theorem State.Inv.loadEvent (h : s.Inv) {image : List Byte} {name path : String}
    (he : loadEvent image name path s = .next t) : t.Inv := by
  unfold Machine.loadEvent load at he
  split at he
  next u hu =>
    split at hu
    · cases hu
    next hfit => cases hu; cases he; exact s.installed_inv image name path (by omega)
  next => cases he; exact h

theorem State.Inv.start (h : s.Inv) {now : Nat} (he : start now s = .next t) : t.Inv := by
  unfold Machine.start at he
  split at he
  · cases he
  next hl =>
    split at he
    · cases he; exact h
    next hf => cases he; exact { h with running := fun _ => ⟨by simpa using hl, by simpa using hf⟩ }

theorem State.Inv.singleStep (h : s.Inv) (he : singleStep s = .next t) : t.Inv := by
  unfold Machine.singleStep at he
  split at he
  · cases he
  · split at he
    · cases he; exact h
    · exact h.cycle he

theorem State.Inv.setKey (h : s.Inv) {k : Nat} {b : Bool} (he : setKey k b s = .next t) : t.Inv := by
  unfold Machine.setKey at he
  split at he
  · cases he; exact { h with }
  · cases he

theorem State.Inv.toggleBreakpoint (h : s.Inv) (he : toggleBreakpoint s = .next t) : t.Inv := by
  unfold Machine.toggleBreakpoint at he
  split at he
  · cases he
  · split at he
    · cases he; exact { h with breakpoints := bpSorted_erase _ _ h.breakpoints, running := fun hr => by cases hr }
    · cases he; exact { h with breakpoints := bpSorted_insert _ _ h.breakpoints, running := fun hr => by cases hr }

theorem State.Inv.timerTick (h : s.Inv) (he : timerTick s = .next t) : t.Inv := by
  unfold Machine.timerTick at he
  split at he
  · cases he; exact { h with }
  · cases he; exact h

theorem State.Inv.catchUp (h : s.Inv) {now : Nat} (he : catchUp now s = .next t) : t.Inv := by
  unfold Machine.catchUp at he
  split at he
  · cases he
  split at he
  · cases he
  split at he
  · cases he
  exact driveLoop_keeps State.Inv State.run State.countExecuted (fun _ _ hu => hu.cycle) (fun _ hu => { hu with })
    _ s t h he

theorem State.Inv.executeForDuration (h : s.Inv) {now ms : Nat} (he : executeForDuration now ms s = .next t) :
    t.Inv := by
  unfold Machine.executeForDuration warpLoop at he
  split at he
  · cases he
  · have hstart : (s.warpStart now).Inv := { h with }
    exact driveLoop_keeps State.Inv _ (fun u => u) (fun _ _ hu => hu.cycle) (fun _ hu => hu) _ _ t hstart he

/-- Every event from outside keeps the invariant (R235). -/
theorem State.Inv.applyEvent (h : s.Inv) {e : HostEvent} (he : applyEvent e s = .next t) : t.Inv := by
  cases e with
  | load image name path => exact h.loadEvent he
  | start now => exact h.start he
  | stop => cases he; exact h.setRun false fun hb => by cases hb
  | singleStep => exact h.singleStep he
  | catchUp now => exact h.catchUp he
  | executeForDuration now ms => exact h.executeForDuration he
  | setKey k b => exact h.setKey he
  | toggleBreakpoint => exact h.toggleBreakpoint he
  | increaseSpeed now | decreaseSpeed now => cases he; exact { h with }
  | timerTick => exact h.timerTick he
  | isRunning | snapshot | exportMemoryImage => cases he; exact h

end

/-- Settles O60: a cycle and every event keep the invariant, and so does taking the event from the list. -/
theorem stepKeepsInvariant : Obligations.StepKeepsInvariant := by
  intro s t h hs
  unfold step transition at hs
  split at hs
  next => exact h.cycle hs
  next rest hin =>
    have hrest : { s with inbox := rest }.Inv := { h with }
    exact hrest.applyEvent hs

end Sys2Proof.Machine
end

section
/-! PROOFS. Fetch and the host's views of memory (spec/20_memory.md): a step with no event waiting by what it fetches,
and what the three views show. -/

namespace Sys2Proof.Machine

/-! ### The fetch -/

section
variable {s : State}

/-- With the pointer at most `0xFFE` the fetch reads the big-endian word there (R62, R72). -/
theorem State.fetchWord_eq_some (hpc : s.pc.toNat ≤ 0xFFE) : s.fetchWord = some (Memory.word s.mem s.pc.toNat) :=
  if_neg (by omega)

/-- With the pointer above `0xFFE` there is no word to fetch (R72). -/
theorem State.fetchWord_eq_none (hpc : 0xFFE < s.pc.toNat) : s.fetchWord = none :=
  if_pos hpc

/-- With no event waiting a step is one cycle (R11; log 1). -/
theorem step_eq_cycle (hin : s.inbox = []) : step s = cycle s := by
  simp only [step, transition, hin]

/-- A cycle of a loaded, unfaulted machine runs the word it fetches (R120). -/
theorem cycle_eq_runWord {w : Word} (hl : s.loaded = true) (hf : s.fault = none) (hw : s.fetchWord = some w) :
    cycle s = runWord w s := by
  simp [cycle, hl, hf, hw]

/-- A cycle of a loaded, unfaulted machine that can fetch no word takes the fetch fault (R72, R232). -/
theorem cycle_eq_fetchFault (hl : s.loaded = true) (hf : s.fault = none) (hw : s.fetchWord = none) :
    cycle s = s.raise (.fetchOutOfRange s.pc) := by
  simp [cycle, hl, hf, hw]

/-- A word that decodes runs its instruction, and then the end of the cycle (R120). -/
theorem runWord_of_decode {w : Word} {i : Instr} (hi : decode w = .ok i) : runWord w s = endCycle (exec i s) := by
  simp only [runWord, hi]

end

/-- The end of a cycle stops an unfaulted machine at a breakpoint, and changes nothing else (R120, R245). -/
theorem endCycle_next_eq_stop (t : State) :
    endCycle (.next t) = .next (if t.fault = none ∧ t.pc ∈ t.bp then { t with run := false } else t) := by
  rw [endCycle_next]
  by_cases hf : t.fault = none
  · simp [hf, State.checkBreakpoint]
  · simp [hf]

/-- Settles O8: the cycle runs the fetched word, which decodes to `i`; the end of the cycle is the breakpoint check. -/
theorem stepRunsDecodedInstruction : Obligations.StepRunsDecodedInstruction := by
  intro s i hin hl hf hpc hdec
  have hword : decode (Memory.word s.mem s.pc.toNat) = .ok i := hdec
  have hrun : step s = endCycle (exec i s) := by
    rw [step_eq_cycle hin, cycle_eq_runWord hl hf (State.fetchWord_eq_some hpc), runWord_of_decode hword]
  rw [hrun]
  cases exec i s with
  | next t => exact endCycle_next_eq_stop t
  | fault r => rfl
  | refused r => rfl

/-- Settles O9: no word is fetched above `0xFFE`, so the cycle takes the fetch fault. -/
theorem fetchOutOfRangeFaults : Obligations.FetchOutOfRangeFaults := by
  intro s hin hl hf hpc
  have hfault : step s = s.raise (.fetchOutOfRange s.pc) := by
    rw [step_eq_cycle hin, cycle_eq_fetchFault hl hf (State.fetchWord_eq_none hpc)]
  exact hfault

/-! ### The views -/

/-- The exported image has a byte for each address of memory (R74). -/
@[simp] theorem length_exportMemoryImage (s : State) : (exportMemoryImage s).length = 4096 :=
  Memory.length_readBytes s.mem 0 Config.memSize

/-- Byte `a` of the exported image is the byte of memory at `a` (R74). -/
theorem getElem?_exportMemoryImage (s : State) (a : Nat) (ha : a < 4096) :
    (exportMemoryImage s)[a]? = some (Memory.read s.mem a) := by
  have hlen : a < (exportMemoryImage s).length := by rwa [length_exportMemoryImage]
  rw [List.getElem?_eq_getElem hlen]
  simp only [exportMemoryImage, Memory.getElem_readBytes, Nat.zero_add]

/-- Settles O58: as events the views answer the state they are given; the image is memory, byte by byte; the other two
views read the fields they show. -/
theorem viewsShowAndChangeNothing : Obligations.ViewsShowAndChangeNothing := by
  intro s
  have hunchanged : applyEvent .isRunning s = .next s ∧ applyEvent .snapshot s = .next s ∧
      applyEvent .exportMemoryImage s = .next s := ⟨rfl, rfl, rfl⟩
  exact ⟨hunchanged, rfl, length_exportMemoryImage s, getElem?_exportMemoryImage s, rfl⟩

end Sys2Proof.Machine
end

section
/-! PROOFS. The decoder and the encoder (spec/30_encoding.md). A word that matches a row of the opcode map decodes to
that row's instruction with its operands read from the word (`decodeWith_of_row`); decoding an encoding, ignored bits,
the rows and the assembler's words follow from it. -/

namespace Sys2Proof

/-! ### The fields of a masked word -/

section
variable {w mask m : Word}

/-- A mask with every bit of a field set fixes that field (R91, R95). -/
theorem extractLsb'_of_and_eq {start len : Nat} (h : w &&& mask = m)
    (hmask : mask.extractLsb' start len = BitVec.allOnes len) : w.extractLsb' start len = m.extractLsb' start len := by
  rw [← h, BitVec.extractLsb'_and, hmask, BitVec.and_allOnes]

theorem fieldOp_of_and_eq (h : w &&& mask = m) (hmask : fieldOp mask = 0xF) : fieldOp w = fieldOp m :=
  extractLsb'_of_and_eq h hmask

theorem fieldY_of_and_eq (h : w &&& mask = m) (hmask : fieldY mask = 0xF) : fieldY w = fieldY m :=
  extractLsb'_of_and_eq h hmask

theorem fieldN_of_and_eq (h : w &&& mask = m) (hmask : fieldN mask = 0xF) : fieldN w = fieldN m :=
  extractLsb'_of_and_eq h hmask

theorem fieldNN_of_and_eq (h : w &&& mask = m) (hmask : fieldNN mask = 0xFF) : fieldNN w = fieldNN m :=
  extractLsb'_of_and_eq h hmask

end

/-- The low nibble is the low half of the low byte (R91). -/
theorem fieldN_eq_setWidth_fieldNN (w : Word) : fieldN w = (fieldNN w).setWidth 4 := by
  ext i h
  simp only [fieldN, fieldNN, BitVec.getElem_extractLsb']
  interval_cases i <;> simp

/-! ### A word from its fields (R91, R92) -/

theorem formatA_of_fields {w : Word} {op : Nibble} (hop : fieldOp w = op) : formatA op (fieldNNN w) = w := by
  subst hop
  ext i h
  simp only [formatA, fieldOp, fieldNNN, BitVec.getElem_or]
  interval_cases i <;> simp

theorem formatXNN_of_fields {w : Word} {op : Nibble} {nn : Byte} (hop : fieldOp w = op) (hnn : fieldNN w = nn) :
    formatXNN op (fieldX w) nn = w := by
  subst hop hnn
  ext i h
  simp only [formatXNN, fieldOp, fieldX, fieldNN, BitVec.getElem_or]
  interval_cases i <;> simp

theorem formatXYN_of_fields {w : Word} {op y n : Nibble} (hop : fieldOp w = op) (hy : fieldY w = y)
    (hn : fieldN w = n) : formatXYN op (fieldX w) y n = w := by
  subst hop hy hn
  ext i h
  simp only [formatXYN, fieldOp, fieldX, fieldY, fieldN, BitVec.getElem_or]
  interval_cases i <;> simp

/-! ### Rows of the opcode map -/

/-- The instruction of `i`'s row of the opcode map with its operands read from the fields of `w` (R91, R95). -/
def Instr.readFrom (w : Word) : Instr → Instr
  | .cls => .cls
  | .ret => .ret
  | .jp _ => .jp (fieldNNN w)
  | .call _ => .call (fieldNNN w)
  | .seImm _ _ => .seImm (fieldX w) (fieldNN w)
  | .sneImm _ _ => .sneImm (fieldX w) (fieldNN w)
  | .seReg _ _ => .seReg (fieldX w) (fieldY w)
  | .sneReg _ _ => .sneReg (fieldX w) (fieldY w)
  | .ldImm _ _ => .ldImm (fieldX w) (fieldNN w)
  | .addImm _ _ => .addImm (fieldX w) (fieldNN w)
  | .ldReg _ _ => .ldReg (fieldX w) (fieldY w)
  | .orReg _ _ => .orReg (fieldX w) (fieldY w)
  | .andReg _ _ => .andReg (fieldX w) (fieldY w)
  | .xorReg _ _ => .xorReg (fieldX w) (fieldY w)
  | .addReg _ _ => .addReg (fieldX w) (fieldY w)
  | .sub _ _ => .sub (fieldX w) (fieldY w)
  | .shr _ => .shr (fieldX w)
  | .subn _ _ => .subn (fieldX w) (fieldY w)
  | .shl _ => .shl (fieldX w)
  | .ldI _ => .ldI (fieldNNN w)
  | .jpV0 _ => .jpV0 (fieldNNN w)
  | .rnd _ _ => .rnd (fieldX w) (fieldNN w)
  | .drw _ _ _ => .drw (fieldX w) (fieldY w) (fieldN w)
  | .skp _ => .skp (fieldX w)
  | .sknp _ => .sknp (fieldX w)
  | .ldVxDT _ => .ldVxDT (fieldX w)
  | .ldDTVx _ => .ldDTVx (fieldX w)
  | .ldSTVx _ => .ldSTVx (fieldX w)
  | .ldVxK _ => .ldVxK (fieldX w)
  | .addI _ => .addI (fieldX w)
  | .ldF _ => .ldF (fieldX w)
  | .ldB _ => .ldB (fieldX w)
  | .stBlock _ => .stBlock (fieldX w)
  | .ldBlock _ => .ldBlock (fieldX w)
  | .nop => .nop

/-- The bits the assembler fixes in an instruction's word: those of its row and the ignored ones (R98, R100). -/
def canonicalMask : Instr → Word
  | .cls | .ret => 0xFFFF
  | .seReg _ _ | .sneReg _ _ => 0xF00F
  | .shr _ | .shl _ => 0xF0FF
  | i => (tableRow i).1

/-- Reading operands stays in the row (R95). -/
@[simp] theorem tableRow_readFrom (w : Word) (i : Instr) : tableRow (i.readFrom w) = tableRow i := by
  cases i <;> rfl

@[simp] theorem canonicalMask_readFrom (w : Word) (i : Instr) :
    canonicalMask (i.readFrom w) = canonicalMask i := by
  cases i <;> rfl

theorem readFrom_ne_nop {w : Word} {i : Instr} (hi : i ≠ .nop) : i.readFrom w ≠ .nop := by
  cases i with
  | nop => exact absurd rfl hi
  | _ => exact nofun

/-- The fields of an instruction's own word hold its operands (R91, R92). -/
@[simp] theorem readFrom_encode (i : Instr) : i.readFrom (encode i) = i := by
  cases i <;> simp [encode, Instr.readFrom]

/-! ### The families of the dispatch -/

section
variable {key0 keyE : Option Config.SubKey} {w : Word}

theorem decodeWith_family0 (h : fieldOp w = 0x0) : decodeWith key0 keyE w = decodeFamily0 key0 w := by
  rw [decodeWith, h]
  rfl

theorem decodeWith_family8 (h : fieldOp w = 0x8) : decodeWith key0 keyE w = .ok (decodeFamily8 w) := by
  rw [decodeWith, h]
  rfl

theorem decodeWith_familyE (h : fieldOp w = 0xE) : decodeWith key0 keyE w = decodeFamilyE keyE w := by
  rw [decodeWith, h]
  rfl

theorem decodeWith_familyF (h : fieldOp w = 0xF) : decodeWith key0 keyE w = .ok (decodeFamilyF w) := by
  rw [decodeWith, h]
  rfl

/-- A word that matches a mapped row decodes to the row's instruction, operands read from the word, whatever the open
key widths are (R95, R103). -/
theorem decodeWith_of_row {i : Instr} (hi : i ≠ .nop) (h : w &&& (tableRow i).1 = (tableRow i).2) :
    decodeWith key0 keyE w = .ok (i.readFrom w) := by
  cases i with
  | nop => exact absurd rfl hi
  | cls | ret =>
    dsimp only [tableRow] at h
    rw [decodeWith_family0 (fieldOp_of_and_eq h rfl), decodeFamily0, fieldNN_of_and_eq h rfl]
    rfl
  | ldReg | orReg | andReg | xorReg | addReg | sub | shr | subn | shl =>
    dsimp only [tableRow] at h
    rw [decodeWith_family8 (fieldOp_of_and_eq h rfl), decodeFamily8, fieldN_of_and_eq h rfl]
    rfl
  | skp | sknp =>
    dsimp only [tableRow] at h
    rw [decodeWith_familyE (fieldOp_of_and_eq h rfl), decodeFamilyE, fieldNN_of_and_eq h rfl]
    rfl
  | ldVxDT | ldDTVx | ldSTVx | ldVxK | addI | ldF | ldB | stBlock | ldBlock =>
    dsimp only [tableRow] at h
    rw [decodeWith_familyF (fieldOp_of_and_eq h rfl), decodeFamilyF, fieldNN_of_and_eq h rfl]
    rfl
  | jp | call | seImm | sneImm | seReg | sneReg | ldImm | addImm | ldI | jpV0 | rnd | drw =>
    dsimp only [tableRow] at h
    rw [decodeWith, fieldOp_of_and_eq h rfl]
    rfl

/-- A word that matches a mapped row and whose fields hold the instruction's operands decodes to that instruction. -/
theorem decodeWith_of_row_of_fields {i : Instr} (hi : i ≠ .nop) (h : w &&& (tableRow i).1 = (tableRow i).2)
    (hfields : i.readFrom w = i) : decodeWith key0 keyE w = .ok i := by
  rw [decodeWith_of_row hi h, hfields]

end

open Laws in
/-- The encoder writes a word of the instruction's own row (R95). -/
theorem encode_matches_row : ∀ i : Instr, TableRow.Statement i
  | .cls => TableRow.cls
  | .ret => TableRow.ret
  | .jp nnn => TableRow.jp nnn
  | .call nnn => TableRow.call nnn
  | .seImm x nn => TableRow.seImm x nn
  | .sneImm x nn => TableRow.sneImm x nn
  | .seReg x y => TableRow.seReg x y
  | .sneReg x y => TableRow.sneReg x y
  | .ldImm x nn => TableRow.ldImm x nn
  | .addImm x nn => TableRow.addImm x nn
  | .ldReg x y => TableRow.ldReg x y
  | .orReg x y => TableRow.orReg x y
  | .andReg x y => TableRow.andReg x y
  | .xorReg x y => TableRow.xorReg x y
  | .addReg x y => TableRow.addReg x y
  | .sub x y => TableRow.sub x y
  | .shr x => TableRow.shr x
  | .subn x y => TableRow.subn x y
  | .shl x => TableRow.shl x
  | .ldI nnn => TableRow.ldI nnn
  | .jpV0 nnn => TableRow.jpV0 nnn
  | .rnd x nn => TableRow.rnd x nn
  | .drw x y n => TableRow.drw x y n
  | .skp x => TableRow.skp x
  | .sknp x => TableRow.sknp x
  | .ldVxDT x => TableRow.ldVxDT x
  | .ldDTVx x => TableRow.ldDTVx x
  | .ldSTVx x => TableRow.ldSTVx x
  | .ldVxK x => TableRow.ldVxK x
  | .addI x => TableRow.addI x
  | .ldF x => TableRow.ldF x
  | .ldB x => TableRow.ldB x
  | .stBlock x => TableRow.stBlock x
  | .ldBlock x => TableRow.ldBlock x
  | .nop => TableRow.nop

/-- Settles O1: an encoding matches its instruction's row, and its fields hold the operands; the word of `nop` is
unmapped in family 8. -/
theorem decodeOfEncode : Obligations.DecodeOfEncode := by
  intro key0 keyE i _
  by_cases hi : i = .nop
  · subst hi
    exact decodeWith_family8 rfl
  · exact decodeWith_of_row_of_fields hi (encode_matches_row i) (readFrom_encode i)

/-- Settles O7: the decoded instruction is the row's, with other operands. -/
theorem matchingWordDecodesToItsRow : Obligations.MatchingWordDecodesToItsRow := by
  intro key0 keyE i w hi h
  exact ⟨i.readFrom w, decodeWith_of_row hi h, tableRow_readFrom w i⟩

/-- Settles O5: each word matches its instruction's row, whose mask leaves the ignored bits out, and the fields that are
operands do not hold them. -/
theorem ignoredBitsAreNotChecked : Obligations.IgnoredBitsAreNotChecked := by
  intro key0 keyE x y n
  refine ⟨?_, ?_, ?_, ?_, ?_, ?_⟩
  · exact decodeWith_of_row_of_fields nofun (Laws.formatXYN_mask 0x5 x y n) (by simp [Instr.readFrom])
  · exact decodeWith_of_row_of_fields nofun (Laws.formatXYN_mask 0x9 x y n) (by simp [Instr.readFrom])
  · exact decodeWith_of_row_of_fields nofun (Laws.formatXNN_maskLow 0x0 x 0xE0) rfl
  · exact decodeWith_of_row_of_fields nofun (Laws.formatXNN_maskLow 0x0 x 0xEE) rfl
  · exact decodeWith_of_row_of_fields nofun (Laws.formatXYN_maskLow 0x8 x y 0x6) (by simp [Instr.readFrom])
  · exact decodeWith_of_row_of_fields nofun (Laws.formatXYN_maskLow 0x8 x y 0xE) (by simp [Instr.readFrom])

/-! ### The assembler's words -/

/-- One instruction of each mapped row, in the order of the assembler's forms (R95, R100). -/
def mappedRows : List Instr :=
  [.cls, .ret, .jp 0, .call 0, .seImm 0 0, .sneImm 0 0, .seReg 0 0, .sneReg 0 0, .ldImm 0 0, .addImm 0 0,
    .ldReg 0 0, .orReg 0 0, .andReg 0 0, .xorReg 0 0, .addReg 0 0, .sub 0 0, .shr 0, .subn 0 0, .shl 0,
    .ldI 0, .jpV0 0, .rnd 0 0, .drw 0 0 0, .skp 0, .sknp 0, .ldVxDT 0, .ldDTVx 0, .ldSTVx 0, .ldVxK 0,
    .addI 0, .ldF 0, .ldB 0, .stBlock 0, .ldBlock 0]

theorem canonicalForms_eq_map : canonicalForms = mappedRows.map fun i => (canonicalMask i, (tableRow i).2) := rfl

/-- With its operands read from the word 0 a mapped instruction is the one listed for its row. -/
theorem readFrom_zero_mem {i : Instr} (hi : i ≠ .nop) : i.readFrom 0 ∈ mappedRows := by
  cases i with
  | nop => exact absurd rfl hi
  | _ =>
    dsimp only [Instr.readFrom]
    decide

/-- Every mapped instruction's form is one of the assembler's (R100). -/
theorem canonicalForm_mem {i : Instr} (hi : i ≠ .nop) : (canonicalMask i, (tableRow i).2) ∈ canonicalForms := by
  rw [canonicalForms_eq_map]
  exact List.mem_map.2 ⟨i.readFrom 0, readFrom_zero_mem hi, by simp⟩

/-- The assembler's words are those of the mapped instructions' forms (R98, R100). -/
theorem canonicalWord_iff {w : Word} :
    canonicalWord w = true ↔ ∃ i, i ≠ .nop ∧ w &&& canonicalMask i = (tableRow i).2 := by
  simp only [canonicalWord, List.any_eq_true, beq_iff_eq]
  constructor
  · rintro ⟨p, hp, hw⟩
    rw [canonicalForms_eq_map] at hp
    obtain ⟨i, hi, rfl⟩ := List.mem_map.1 hp
    have hmapped : ∀ j ∈ mappedRows, j ≠ .nop := by decide
    exact ⟨i, hmapped i hi, hw⟩
  · rintro ⟨i, hi, hw⟩
    exact ⟨_, canonicalForm_mem hi, hw⟩

/-- A word of an instruction's canonical form matches its row (R95, R98). -/
theorem row_of_canonical {i : Instr} {w : Word} (h : w &&& canonicalMask i = (tableRow i).2) :
    w &&& (tableRow i).1 = (tableRow i).2 := by
  have hmask : canonicalMask i &&& (tableRow i).1 = (tableRow i).1 := by
    cases i with
    | _ =>
      dsimp only [canonicalMask, tableRow]
      rfl
  have hmatch : (tableRow i).2 &&& (tableRow i).1 = (tableRow i).2 := by
    rw [← encode_matches_row i, BitVec.and_assoc, BitVec.and_self]
  calc w &&& (tableRow i).1 = (w &&& canonicalMask i) &&& (tableRow i).1 := by rw [BitVec.and_assoc, hmask]
    _ = (tableRow i).2 := by rw [h, hmatch]

/-- The low byte of a format `XYN` word is its `Y` and `N` (R91, R92). -/
theorem formatXNN_eq_formatXYN (op x y n : Nibble) :
    formatXNN op x ((y.setWidth 8 <<< 4) ||| n.setWidth 8) = formatXYN op x y n := by
  ext i h
  simp only [formatXNN, formatXYN, BitVec.getElem_or]
  interval_cases i <;> simp

/-- The family nibble and the low byte of a format `XYN` word. -/
theorem formatXYN_maskByte (op x y n : Nibble) : formatXYN op x y n &&& 0xF0FF = formatXYN op 0 y n := by
  rw [← formatXNN_eq_formatXYN, Laws.formatXNN_maskLow, formatXNN_eq_formatXYN]

/-- The encoder writes zero in the ignored bits (R98, R100). -/
theorem encode_and_canonicalMask (i : Instr) : encode i &&& canonicalMask i = (tableRow i).2 := by
  cases i with
  | cls | ret => rfl
  | seReg | sneReg => exact Laws.formatXYN_maskLow _ _ _ _
  | shr | shl => exact formatXYN_maskByte _ _ _ _
  | _ => exact encode_matches_row _

/-- A word of an instruction's canonical form is the encoding of the instruction read from it (R98, R100). -/
theorem encode_readFrom {i : Instr} {w : Word} (hi : i ≠ .nop) (h : w &&& canonicalMask i = (tableRow i).2) :
    encode (i.readFrom w) = w := by
  cases i with
  | nop => exact absurd rfl hi
  | cls | ret =>
    dsimp only [canonicalMask, tableRow] at h
    exact h.symm.trans BitVec.and_allOnes
  | jp | call | ldI | jpV0 =>
    dsimp only [canonicalMask, tableRow] at h
    exact formatA_of_fields (fieldOp_of_and_eq h rfl)
  | seImm | sneImm | ldImm | addImm | rnd =>
    dsimp only [canonicalMask, tableRow] at h
    exact formatXNN_of_fields (fieldOp_of_and_eq h rfl) rfl
  | skp | sknp | ldVxDT | ldDTVx | ldSTVx | ldVxK | addI | ldF | ldB | stBlock | ldBlock =>
    dsimp only [canonicalMask, tableRow] at h
    exact formatXNN_of_fields (fieldOp_of_and_eq h rfl) (fieldNN_of_and_eq h rfl)
  | drw =>
    dsimp only [canonicalMask, tableRow] at h
    exact formatXYN_of_fields (fieldOp_of_and_eq h rfl) rfl rfl
  | seReg | sneReg | ldReg | orReg | andReg | xorReg | addReg | sub | subn =>
    dsimp only [canonicalMask, tableRow] at h
    exact formatXYN_of_fields (fieldOp_of_and_eq h rfl) rfl (fieldN_of_and_eq h rfl)
  | shr | shl =>
    dsimp only [canonicalMask, tableRow] at h
    exact formatXYN_of_fields (fieldOp_of_and_eq h rfl) (fieldY_of_and_eq h rfl) (fieldN_of_and_eq h rfl)

/-- Settles O6: the encoder writes words of the assembler's forms, and a word of a form encodes what it decodes to. -/
theorem canonicalWordsRoundTrip : Obligations.CanonicalWordsRoundTrip := by
  constructor
  · intro i hi
    exact canonicalWord_iff.2 ⟨i, hi, encode_and_canonicalMask i⟩
  · intro key0 keyE w hw
    obtain ⟨i, hi, hform⟩ := canonicalWord_iff.1 hw
    exact ⟨i.readFrom w, decodeWith_of_row hi (row_of_canonical hform), readFrom_ne_nop hi,
      encode_readFrom hi hform⟩

end Sys2Proof
end

section
/-! PROOFS. The classes of words (spec/30_encoding.md R96, R97): what an unmapped word, an ambiguous word and any other
word decode to, for every setting of the open key widths. -/

namespace Sys2Proof

open Machine (ambiguousWord unmappedWord)

section
variable {key key0 keyE : Option Config.SubKey} {w : Word}

/-! ### The families -/

/-- Family 8 has seven unmapped low nibbles (R96). -/
theorem decodeFamily8_eq_nop_iff : decodeFamily8 w = .nop ↔ fieldN w ∈ [0x8, 0x9, 0xA, 0xB, 0xC, 0xD, 0xF] := by
  have hrest : ∀ n : Nibble, n ∈ [0x8, 0x9, 0xA, 0xB, 0xC, 0xD, 0xF] ↔
      n ∉ [0x0, 0x1, 0x2, 0x3, 0x4, 0x5, 0x6, 0x7, 0xE] := by decide
  rw [hrest, decodeFamily8]
  split_ifs <;> simp_all

/-- Family F has nine mapped low bytes (R96). -/
theorem decodeFamilyF_eq_nop_iff :
    decodeFamilyF w = .nop ↔ fieldNN w ∉ [0x07, 0x0A, 0x15, 0x18, 0x1E, 0x29, 0x33, 0x55, 0x65] := by
  rw [decodeFamilyF]
  split_ifs <;> simp_all

/-- A family other than 0, 8, E and F has one instruction, which every word of it decodes to (R94, R103). -/
theorem decodeWith_singleFamily (h0 : fieldOp w ≠ 0x0) (h8 : fieldOp w ≠ 0x8) (hE : fieldOp w ≠ 0xE)
    (hF : fieldOp w ≠ 0xF) : ∃ i, i ≠ .nop ∧ ∀ key0 keyE, decodeWith key0 keyE w = .ok i := by
  have hrest : ∀ op : Nibble, op ≠ 0x0 → op ≠ 0x8 → op ≠ 0xE → op ≠ 0xF →
      op ∈ [0x1, 0x2, 0x3, 0x4, 0x5, 0x6, 0x7, 0x9, 0xA, 0xB, 0xC, 0xD] := by decide
  have hop := hrest _ h0 h8 hE hF
  simp only [List.mem_cons, List.not_mem_nil, or_false] at hop
  rcases hop with h | h | h | h | h | h | h | h | h | h | h | h
  all_goals
    unfold decodeWith
    rw [h]
    refine ⟨_, ?_, fun _ _ => rfl⟩
    nofun

/-- The shape of families 0 and E (R97, R103): two mapped low bytes `b` and `c`; a word that has only the low nibble of
one of them is left to the key width. -/
def decodeKeyed (key : Option Config.SubKey) (w : Word) (b c : Byte) (i j : Instr) : Except DecodeReject Instr :=
  if fieldNN w = b then .ok i
  else if fieldNN w = c then .ok j
  else if fieldN w = b.setWidth 4 then decodeOpen key w i
  else if fieldN w = c.setWidth 4 then decodeOpen key w j
  else .ok .nop

theorem decodeFamily0_eq_decodeKeyed : decodeFamily0 key w = decodeKeyed key w 0xE0 0xEE .cls .ret := rfl

theorem decodeFamilyE_eq_decodeKeyed :
    decodeFamilyE key w = decodeKeyed key w 0x9E 0xA1 (.skp (fieldX w)) (.sknp (fieldX w)) := rfl

section
variable {b c : Byte} {i j : Instr}

/-- A word whose low nibble is that of a mapped byte, and that is not left open, has a mapped low byte and decodes
whatever the key width is (R95). -/
theorem decodeKeyed_of_mapped (hi : i ≠ .nop) (hj : j ≠ .nop)
    (hu : ¬(fieldN w ≠ b.setWidth 4 ∧ fieldN w ≠ c.setWidth 4))
    (ha : ¬((fieldN w = b.setWidth 4 ∧ fieldNN w ≠ b) ∨ (fieldN w = c.setWidth 4 ∧ fieldNN w ≠ c))) :
    ∃ k, k ≠ .nop ∧ ∀ key, decodeKeyed key w b c i j = .ok k := by
  have hbyte : fieldNN w = b ∨ fieldNN w = c := by tauto
  by_cases hb : fieldNN w = b
  · exact ⟨i, hi, fun _ => if_pos hb⟩
  · have hc : fieldNN w = c := hbyte.resolve_left hb
    exact ⟨j, hj, fun _ => by rw [decodeKeyed, if_neg hb, if_pos hc]⟩

/-- A low nibble of neither mapped byte is the no-op whatever the key width is (R96). -/
theorem decodeKeyed_of_nibble_ne (hb : fieldN w ≠ b.setWidth 4) (hc : fieldN w ≠ c.setWidth 4) :
    decodeKeyed key w b c i j = .ok .nop := by
  rw [fieldN_eq_setWidth_fieldNN] at hb hc
  have hb' : fieldNN w ≠ b := fun h => hb (by rw [h])
  have hc' : fieldNN w ≠ c := fun h => hc (by rw [h])
  simp only [decodeKeyed, fieldN_eq_setWidth_fieldNN, if_neg hb', if_neg hc', if_neg hb, if_neg hc]

/-- A word that has only the low nibble of a mapped byte is left to the key width (R97). -/
theorem decodeKeyed_of_open (hbc : b.setWidth 4 ≠ c.setWidth 4)
    (h : (fieldN w = b.setWidth 4 ∧ fieldNN w ≠ b) ∨ (fieldN w = c.setWidth 4 ∧ fieldNN w ≠ c)) :
    decodeKeyed key w b c i j = decodeOpen key w (if fieldN w = b.setWidth 4 then i else j) := by
  rcases h with ⟨hn, hb⟩ | ⟨hn, hc⟩
  · have hc : fieldNN w ≠ c := fun hc => hbc (by rw [← hn, fieldN_eq_setWidth_fieldNN, hc])
    simp only [decodeKeyed, if_neg hb, if_neg hc, if_pos hn]
  · have hnb : fieldN w ≠ b.setWidth 4 := fun hnb => hbc (hnb.symm.trans hn)
    have hb : fieldNN w ≠ b := fun hb => hnb (by rw [fieldN_eq_setWidth_fieldNN, hb])
    simp only [decodeKeyed, if_neg hb, if_neg hc, if_neg hnb, if_pos hn]

end

/-! ### The three classes -/

/-- An unmapped word is the no-op, whatever the open key widths are (R96). -/
theorem decodeWith_of_unmapped (h : unmappedWord w) : decodeWith key0 keyE w = .ok .nop := by
  obtain ⟨hop, hn⟩ | ⟨hop, hnn⟩ | ⟨hop, h0, hE⟩ | ⟨hop, h1, hE⟩ := h
  · rw [decodeWith_family8 hop, decodeFamily8_eq_nop_iff.2 hn]
  · rw [decodeWith_familyF hop, decodeFamilyF_eq_nop_iff.2 hnn]
  · rw [decodeWith_family0 hop, decodeFamily0_eq_decodeKeyed]
    exact decodeKeyed_of_nibble_ne h0 hE
  · rw [decodeWith_familyE hop, decodeFamilyE_eq_decodeKeyed]
    exact decodeKeyed_of_nibble_ne hE h1

/-- An ambiguous word of family 0 is left to that family's key width (R97). -/
theorem decodeWith_of_ambiguous_family0 (h : ambiguousWord w) (hop : fieldOp w = 0x0) :
    decodeWith key0 keyE w = decodeOpen key0 w (if fieldN w = 0x0 then .cls else .ret) := by
  obtain ⟨-, hw⟩ | ⟨hE, -⟩ := h
  · rw [decodeWith_family0 hop, decodeFamily0_eq_decodeKeyed]
    exact decodeKeyed_of_open (by decide) hw
  · rw [hop] at hE
    cases hE

/-- An ambiguous word of family E is left to that family's key width (R97). -/
theorem decodeWith_of_ambiguous_familyE (h : ambiguousWord w) (hop : fieldOp w = 0xE) :
    decodeWith key0 keyE w =
      decodeOpen keyE w (if fieldN w = 0xE then .skp (fieldX w) else .sknp (fieldX w)) := by
  obtain ⟨h0, -⟩ | ⟨-, hw⟩ := h
  · rw [hop] at h0
    cases h0
  · rw [decodeWith_familyE hop, decodeFamilyE_eq_decodeKeyed]
    exact decodeKeyed_of_open (by decide) hw

/-- A word that is neither unmapped nor ambiguous decodes to a mapped instruction, whatever the open key widths are
(R95). -/
theorem decodeWith_of_mapped (hu : ¬unmappedWord w) (ha : ¬ambiguousWord w) :
    ∃ i, i ≠ .nop ∧ ∀ key0 keyE, decodeWith key0 keyE w = .ok i := by
  by_cases h8 : fieldOp w = 0x8
  · have hi : decodeFamily8 w ≠ .nop := fun h => hu (.inl ⟨h8, decodeFamily8_eq_nop_iff.1 h⟩)
    exact ⟨_, hi, fun _ _ => decodeWith_family8 h8⟩
  by_cases hF : fieldOp w = 0xF
  · have hi : decodeFamilyF w ≠ .nop := fun h => hu (.inr (.inl ⟨hF, decodeFamilyF_eq_nop_iff.1 h⟩))
    exact ⟨_, hi, fun _ _ => decodeWith_familyF hF⟩
  by_cases h0 : fieldOp w = 0x0
  · obtain ⟨i, hi, hdec⟩ := decodeKeyed_of_mapped (b := 0xE0) (c := 0xEE) (i := .cls) (j := .ret)
      nofun nofun (fun h => hu (.inr (.inr (.inl ⟨h0, h⟩)))) (fun h => ha (.inl ⟨h0, h⟩))
    exact ⟨i, hi, fun key0 _ => (decodeWith_family0 h0).trans (hdec key0)⟩
  by_cases hE : fieldOp w = 0xE
  · obtain ⟨i, hi, hdec⟩ := decodeKeyed_of_mapped (b := 0x9E) (c := 0xA1) (i := .skp (fieldX w))
      (j := .sknp (fieldX w)) nofun nofun
      (fun h => hu (.inr (.inr (.inr ⟨hE, h.symm⟩)))) (fun h => ha (.inr ⟨hE, h⟩))
    exact ⟨i, hi, fun _ keyE => (decodeWith_familyE hE).trans (hdec keyE)⟩
  exact decodeWith_singleFamily h0 h8 hE hF

/-- With both key widths open an ambiguous word is refused by name (R97). -/
theorem decodeWith_open_of_ambiguous (h : ambiguousWord w) : decodeWith none none w = .error (.ambiguous w) := by
  obtain ⟨hop, -⟩ | ⟨hop, -⟩ := id h
  · exact decodeWith_of_ambiguous_family0 h hop
  · exact decodeWith_of_ambiguous_familyE h hop

end

/-- A key of fixed width leaves no word open (R97). -/
theorem decodeOpen_some (k : Config.SubKey) (w : Word) (i : Instr) :
    decodeOpen (some k) w i = .ok (if k = .byte then .nop else i) := by
  cases k <;> rfl

/-- Settles O3: each class of words has one outcome, and the outcomes of the three classes differ. -/
theorem wordsPartition : Obligations.WordsPartition := by
  intro w
  by_cases hu : unmappedWord w
  · have hdec : decodeWith none none w = .ok .nop := decodeWith_of_unmapped hu
    have ha : ¬ambiguousWord w := fun ha => by
      rw [decodeWith_open_of_ambiguous ha] at hdec
      cases hdec
    simp [hdec, hu, ha]
  by_cases ha : ambiguousWord w
  · simp [decodeWith_open_of_ambiguous ha, hu, ha]
  · obtain ⟨i, hi, hdec⟩ := decodeWith_of_mapped hu ha
    simp [hdec, hi, hu, ha]

/-- Settles O4: only an ambiguous word reads a key width, and it reads that of its family. -/
theorem fixedKeysDecodeEveryWord : Obligations.FixedKeysDecodeEveryWord := by
  intro k0 kE w
  refine ⟨fun ha => ?_, fun ha hop => ?_, fun ha hop => ?_⟩
  · by_cases hu : unmappedWord w
    · rw [decodeWith_of_unmapped hu, decodeWith_of_unmapped hu]
    · obtain ⟨i, -, hdec⟩ := decodeWith_of_mapped hu ha
      rw [hdec, hdec]
  · rw [decodeWith_of_ambiguous_family0 ha hop, decodeOpen_some]
  · rw [decodeWith_of_ambiguous_familyE ha hop, decodeOpen_some]

/-- Settles O2: the decoder evaluates on each word. -/
theorem specWordsDecode : Obligations.SpecWordsDecode := by
  exact ⟨rfl, rfl, rfl, rfl, rfl, rfl, rfl, rfl, rfl, rfl, rfl, rfl, rfl, rfl, rfl, rfl, rfl, rfl, rfl, rfl, rfl,
    rfl, rfl⟩

end Sys2Proof
end

section
/-! PROOFS. Every instruction answers a next state (spec/30_encoding.md R99, spec/40_flow.md R120, spec/60_exceptions.md
R232), but for `RET` above the stack (log 8). -/

namespace Sys2Proof.Machine

/-- Above an empty stack `SP - 1` does not wrap (R24). -/
theorem State.toNat_sp_sub_one (s : State) (h : s.sp ≠ 0) : (s.sp - 1).toNat + 1 = s.sp.toNat := by
  have hpos : s.sp.toNat ≠ 0 := fun h0 => h (BitVec.eq_of_toNat_eq h0)
  bv_omega

/-- `RET` at `SP` at most 16 faults or pops an entry that exists (R24, R123). -/
theorem execRet_completes (s : State) (h : s.sp.toNat ≤ 16) : Completes (execRet s) := by
  unfold execRet
  split
  · exact ⟨_, rfl⟩
  next hsp =>
    have hentry : (s.sp - 1).toNat < 16 := by
      have := s.toNat_sp_sub_one hsp
      omega
    rw [Vector.getElem?_eq_getElem hentry]
    exact ⟨_, rfl⟩

/-- `RET` above `SP = 16` stops: the stack has no such entry (log 8). -/
theorem execRet_eq_fault (s : State) (h : 16 < s.sp.toNat) :
    execRet s = .fault (.noSuchStackEntry (s.sp.toNat - 1)) := by
  have hsp : s.sp ≠ 0 := fun h0 => by rw [h0] at h; exact absurd h (by decide)
  have hentry : 16 ≤ (s.sp - 1).toNat := by
    have := s.toNat_sp_sub_one hsp
    omega
  rw [execRet, if_neg hsp, Vector.getElem?_eq_none hentry, ← s.toNat_sp_sub_one hsp, Nat.add_sub_cancel]

/-- Every instruction but `RET` answers a next state: what it does when its check passes, or fault entry (R232). -/
theorem exec_completes {i : Instr} (s : State) (hi : i ≠ .ret) : Completes (exec i s) := by
  cases i with
  | ret => exact absurd rfl hi
  | call | skp | sknp | ldVxK | ldB | stBlock | ldBlock =>
    simp only [exec, execCall, execSkp, execSknp, execLdVxK, execLdB, execStBlock, execLdBlock]
    split
    · exact ⟨_, rfl⟩
    · exact ⟨_, rfl⟩
  | drw x y n =>
    simp only [exec, execDrw]
    split
    · exact ⟨_, rfl⟩
    · split
      · exact ⟨_, rfl⟩
      · exact ⟨_, rfl⟩
  | _ => exact ⟨_, rfl⟩

/-- Settles O35: `RET` reads an entry of the stack exactly at `SP` up to 16; no other instruction can stop. -/
theorem everyInstructionAnswersNext : Obligations.EveryInstructionAnswersNext := by
  intro i s
  constructor
  · intro h
    by_cases hi : i = .ret
    · subst hi
      exact execRet_completes s (h.resolve_right (not_not_intro rfl))
    · exact exec_completes s hi
  · rintro h rfl
    exact execRet_eq_fault s h

end Sys2Proof.Machine
end

section
/-! PROOFS. The flow instructions (spec/40_flow.md): no-op, screen clear, return, jumps, call and the register skips;
and what a cycle refuses (R120). -/

namespace Sys2Proof.Machine

/-! ### What a step refuses -/

section
variable {s : State} {r : Refusal}

/-- No instruction is refused: each answers a next state, but for `RET` above the stack, which stops (R99; log 8). -/
theorem exec_ne_refused (i : Instr) (s : State) (r : Refusal) : exec i s ≠ .refused r := by
  have hnext : Completes (exec i s) → exec i s ≠ .refused r := by
    rintro ⟨t, ht⟩
    simp [ht]
  by_cases hi : i = .ret
  · subst hi
    obtain hsp | hsp := Nat.lt_or_ge 16 s.sp.toNat
    · have hstop : exec .ret s = .fault (.noSuchStackEntry (s.sp.toNat - 1)) := execRet_eq_fault s hsp
      simp [hstop]
    · exact hnext (execRet_completes s hsp)
  · exact hnext (exec_completes s hi)

/-- The end of a cycle refuses nothing of its own (R120). -/
theorem eq_refused_of_endCycle {o : Result} (h : endCycle o = .refused r) : o = .refused r := by
  cases o with
  | refused r' => exact h
  | next t => cases h
  | fault f => cases h

/-- Running a word is refused exactly when the word does not decode, naming the word (R97, R120). -/
theorem runWord_eq_refused_iff {w : Word} :
    runWord w s = .refused r ↔ ∃ e, decode w = .error e ∧ r = .ambiguousWord w := by
  rw [runWord]
  cases hdec : decode w with
  | ok i =>
    have hrun : endCycle (exec i s) ≠ .refused r := fun h => exec_ne_refused i s r (eq_refused_of_endCycle h)
    simp [hrun]
  | error e => simp [eq_comm]

/-- A cycle before the first load is refused (R40, R120). -/
theorem cycle_of_not_loaded (hl : s.loaded = false) : cycle s = .refused .notLoaded :=
  if_pos hl

/-- A cycle of a faulted machine is refused (R34, R120). -/
theorem cycle_of_faulted (hl : s.loaded = true) (hf : s.fault ≠ none) : cycle s = .refused .machineFaulted := by
  simp [cycle, hl, Option.isSome_iff_ne_none.2 hf]

/-- A cycle of a loaded, unfaulted machine is refused exactly on a fetched word that does not decode (R97, R120). -/
theorem cycle_eq_refused_iff (hl : s.loaded = true) (hf : s.fault = none) :
    cycle s = .refused r ↔ s.pc.toNat ≤ 0xFFE ∧
      ∃ e, decode (Memory.word s.mem s.pc.toNat) = .error e ∧
        r = .ambiguousWord (Memory.word s.mem s.pc.toNat) := by
  by_cases hpc : s.pc.toNat ≤ 0xFFE
  · rw [cycle_eq_runWord hl hf (State.fetchWord_eq_some hpc), runWord_eq_refused_iff]
    simp [hpc]
  · rw [cycle_eq_fetchFault hl hf (State.fetchWord_eq_none (not_le.1 hpc))]
    simp [State.raise, hpc]

end

/-- Settles O10: with no event waiting a step is a cycle, whose preconditions and fetched word are checked in turn. -/
theorem stepRefusesExactly : Obligations.StepRefusesExactly := by
  intro s r hin
  rw [step_eq_cycle hin]
  cases hl : s.loaded with
  | false => simp [cycle_of_not_loaded hl, eq_comm]
  | true =>
    by_cases hf : s.fault = none
    · simp [cycle_eq_refused_iff hl hf, hf]
    · simp [cycle_of_faulted hl hf, hf, eq_comm]

/-! ### The stack -/

section
variable {s : State}

/-- `RET` on an empty stack takes the fault `StackUnderflow` (R123). -/
theorem execRet_eq_raise (h : s.sp = 0) : execRet s = s.raise .stackUnderflow :=
  if_pos h

/-- `RET` pops the entry below `SP` into the pointer (R123). -/
theorem execRet_eq_pop {w : Word} (hsp : s.sp ≠ 0) (hw : s.stack[(s.sp - 1).toNat]? = some w) :
    execRet s = .next (s.dropTop.setPc w) := by
  rw [execRet, if_neg hsp, hw]

/-- `CALL` at `SP >= 15` takes the fault `StackOverflow` of `SP` (R125). -/
theorem execCall_eq_raise (nnn : Addr12) (h : 15 ≤ s.sp.toNat) : execCall nnn s = s.raise (.stackOverflow s.sp) :=
  if_pos h

/-- `CALL` below `SP = 15` pushes the advanced pointer and jumps (R125). -/
theorem execCall_eq_push (nnn : Addr12) (h : s.sp.toNat < 15) :
    execCall nnn s = .next ((s.push (s.pc + 2)).setPc (zextAddr nnn)) :=
  if_neg (not_le.2 h)

/-- The entry at `SP` is the one a push writes (R24). -/
theorem State.getElem?_push_stack (w : Word) (h : s.sp.toNat < 16) : (s.push w).stack[s.sp.toNat]? = some w := by
  rw [State.push_stack]
  exact Vector.getElem?_setIfInBounds_self_of_lt h

/-- Every entry after a push (R24). -/
theorem State.getElem_push_stack (s : State) (w : Word) (k : Fin 16) :
    (s.push w).stack[k] = if k.val = s.sp.toNat then w else s.stack[k] := by
  simp [State.push_stack, Vector.getElem_setIfInBounds, eq_comm]

/-- A pop after a push leaves the entry pushed, and nothing else (R24, D7). -/
theorem State.dropTop_push (s : State) (w : Word) : (s.push w).dropTop = { s with stack := (s.push w).stack } := by
  simp [State.push, State.dropTop]

/-- `RET` after a push and a jump goes to the address pushed, with `SP` as before (R123, R125). -/
theorem execRet_push_setPc (w a : Word) (h : s.sp.toNat < 16) :
    execRet ((s.push w).setPc a) = .next { s with pc := w, stack := (s.push w).stack } := by
  have hne : s.sp + 1 ≠ 0 := by bv_omega
  have hentry : (s.push w).stack[(s.sp + 1 - 1).toNat]? = some w := by
    rw [BitVec.add_sub_cancel, State.getElem?_push_stack w h]
  calc execRet ((s.push w).setPc a)
    _ = .next ((s.push w).dropTop.setPc w) := execRet_eq_pop hne hentry
    _ = .next { s with pc := w, stack := (s.push w).stack } := by rw [State.dropTop_push, State.setPc]

end

/-- Settles O14: at `SP = k + 1` the entry below `SP` is `STACK[k]`. -/
theorem retPopsOrUnderflows : Obligations.RetPopsOrUnderflows := by
  intro s
  refine ⟨execRet_eq_raise, fun k hk => ?_⟩
  have hsp : s.sp ≠ 0 := fun h0 => by rw [h0] at hk; cases hk
  have hentry : (s.sp - 1).toNat = k.val := by
    have := s.toNat_sp_sub_one hsp
    omega
  exact execRet_eq_pop hsp (by rw [hentry]; exact Vector.getElem?_eq_getElem k.isLt)

/-- Settles O16: below `SP = 15` neither the increment nor the stack write is out of range. -/
theorem callPushesOrOverflows : Obligations.CallPushesOrOverflows := by
  intro s nnn
  refine ⟨execCall_eq_raise nnn, fun hsp => ⟨_, execCall_eq_push nnn hsp, toNat_zextAddr nnn, ?_, ?_, rfl⟩⟩
  · rw [State.setPc_sp, State.push_sp]
    bv_omega
  · exact s.getElem_push_stack (s.pc + 2)

/-- Settles O17: a `CALL` that does not fault is a push and a jump, which `RET` undoes. -/
theorem retUndoesCall : Obligations.RetUndoesCall := by
  intro s nnn hsp
  exact ⟨_, execCall_eq_push nnn hsp, execRet_push_setPc _ _ (hsp.trans (by decide))⟩

/-! ### The pointer -/

/-- The sum of an address and a byte fits in the pointer (R171). -/
theorem toNat_zextAddr_add_zextByte (nnn : Addr12) (b : Byte) :
    (zextAddr nnn + zextByte b).toNat = nnn.toNat + b.toNat := by
  rw [BitVec.toNat_add, toNat_zextAddr, toNat_zextByte, Nat.mod_eq_of_lt (by omega)]

/-- Settles O15: both targets as numbers; the sum does not wrap. -/
theorem jumpsReplacePointer : Obligations.JumpsReplacePointer := by
  intro s nnn
  exact ⟨⟨_, rfl, toNat_zextAddr nnn, rfl⟩, ⟨_, rfl, toNat_zextAddr_add_zextByte nnn _, rfl⟩⟩

/-- A skip whose test decides `p` advances the pointer by 4 when `p` holds, else by 2, and does nothing else (R126). -/
theorem State.advance_skipIf_of_iff (s : State) {c : Bool} {p : Prop} [Decidable p] (h : c = true ↔ p) :
    s.advance.skipIf c = { s with pc := if p then s.pc + 4 else s.pc + 2 } := by
  rw [State.advance_skipIf, State.setPc]
  simp only [h]

/-- Settles O18: each skip's test decides its condition. -/
theorem skipsOnCondition : Obligations.SkipsOnCondition := by
  intro s x y nn
  exact ⟨congrArg _ (s.advance_skipIf_of_iff beq_iff_eq), congrArg _ (s.advance_skipIf_of_iff bne_iff_ne),
    congrArg _ (s.advance_skipIf_of_iff beq_iff_eq), congrArg _ (s.advance_skipIf_of_iff bne_iff_ne)⟩

/-! ### No-op and screen clear -/

/-- Settles O12: the meaning of the no-op is the advance. -/
theorem nopOnlyAdvances : Obligations.NopOnlyAdvances := by
  intro s
  rfl

/-- Settles O13: the framebuffer after `CLS` is the blank one. -/
theorem clsClearsEveryCell : Obligations.ClsClearsEveryCell := by
  intro s
  exact ⟨s.advance.setFb Framebuffer.blank, rfl, Framebuffer.cell_blank, rfl⟩

end Sys2Proof.Machine
end

section
/-! PROOFS. The literal moves and the register-to-register ALU (spec/41_literal_alu.md): the two shapes of its updates
and its flags as numbers, and the flag as an operand (R151). -/

namespace Sys2Proof.Machine

/-! ### One register written, no flag -/

/-- Writing one register after the advance (R20, R23). -/
theorem State.regWritten_setV (s : State) (x : Nibble) (b : Byte) :
    RegWritten s (s.advance.setV x b) x b.toNat := by
  refine ⟨fun r => ?_, rfl⟩
  rw [State.getV_setV, State.getV_advance, apply_ite BitVec.toNat]
  simp only [eq_comm]

/-- Settles O19: the sum of two bytes is taken mod 256. -/
theorem literalMoves : Obligations.LiteralMoves := by
  intro s x nn
  exact ⟨⟨_, rfl, s.regWritten_setV x nn⟩,
    ⟨_, rfl, BitVec.toNat_add (s.getV x) nn ▸ s.regWritten_setV x (s.getV x + nn)⟩⟩

/-- Settles O20: each of the four writes one register after the advance. -/
theorem copyAndBitwise : Obligations.CopyAndBitwise := by
  intro s x y
  exact ⟨⟨_, rfl, s.regWritten_setV x _⟩,
    ⟨_, rfl, BitVec.toNat_or (s.getV x) (s.getV y) ▸ s.regWritten_setV x _⟩,
    ⟨_, rfl, BitVec.toNat_and (s.getV x) (s.getV y) ▸ s.regWritten_setV x _⟩,
    ⟨_, rfl, BitVec.toNat_xor (s.getV x) (s.getV y) ▸ s.regWritten_setV x _⟩⟩

/-! ### The flags as numbers -/

/-- The carry of a sum, as a number (R146). -/
theorem toNat_carryFlag (a b : Byte) : (carryFlag a b).toNat = if a.toNat + b.toNat > 255 then 1 else 0 := by
  simp only [carryFlag, toNat_flagByte, decide_eq_true_iff]

/-- The absence of a borrow, as a number (R147, R149). -/
theorem toNat_noBorrowFlag (a b : Byte) : (noBorrowFlag a b).toNat = if b.toNat > a.toNat then 0 else 1 := by
  simp only [noBorrowFlag, toNat_flagByte, Bool.not_eq_true', decide_eq_false_iff_not, ite_not]

/-- The bit a right shift shifts out is the remainder by 2 (R148). -/
theorem toNat_shrFlag (a : Byte) : (shrFlag a).toNat = a.toNat % 2 :=
  (BitVec.toNat_and a 1).trans (Nat.and_one_is_mod a.toNat)

/-- The bit a left shift shifts out is the quotient by 128 (R150). -/
theorem toNat_shlFlag (a : Byte) : (shlFlag a).toNat = a.toNat / 128 := by
  rw [shlFlag, BitVec.toNat_ushiftRight, Nat.shiftRight_eq_div_pow]

/-- A difference of bytes is taken mod 256 (R147, R149). -/
theorem toNat_sub_byte (a b : Byte) : (a - b).toNat = (a.toNat + 256 - b.toNat) % 256 := by
  bv_omega

/-! ### The flag, then the result (R151) -/

section
variable (s : State) (f : Byte) (x : Nibble) (result : State → Byte)

/-- A register as the flag write leaves it (R21, R151). -/
theorem State.toNat_getV_setFlag (r : Nibble) : ((s.advance.setFlag f).getV r).toNat = s.afterFlag f.toNat r := by
  rw [State.getV_setFlag, State.getV_advance, State.afterFlag, apply_ite BitVec.toNat]

/-- The one shape of a flag-writing operation after the advance, with the result as a number (R146 to R151). -/
theorem State.flagThenReg_flagThenResult {n : Nat} (hn : (result (s.advance.setFlag f)).toNat = n) :
    FlagThenReg s (s.advance.flagThenResult f x result) f.toNat x n := by
  refine ⟨fun r => ?_, rfl⟩
  rw [State.flagThenResult, State.getV_setV, apply_ite BitVec.toNat, State.toNat_getV_setFlag, hn]
  simp only [eq_comm]

end

/-- Settles O21: flag and result as numbers, the result of the registers after the flag write. -/
theorem addAndSubtract : Obligations.AddAndSubtract := by
  intro s x y
  refine ⟨⟨_, _, rfl, toNat_carryFlag _ _, s.flagThenReg_flagThenResult _ x _ ?_⟩,
    ⟨_, _, rfl, toNat_noBorrowFlag _ _, s.flagThenReg_flagThenResult _ x _ ?_⟩,
    ⟨_, _, rfl, toNat_noBorrowFlag _ _, s.flagThenReg_flagThenResult _ x _ ?_⟩⟩
  · rw [BitVec.toNat_add, s.toNat_getV_setFlag, s.toNat_getV_setFlag]
  · rw [toNat_sub_byte, s.toNat_getV_setFlag, s.toNat_getV_setFlag]
  · rw [toNat_sub_byte, s.toNat_getV_setFlag, s.toNat_getV_setFlag]

/-- Settles O22: a shift by one is a division or a doubling of the register after the flag write. -/
theorem shifts : Obligations.Shifts := by
  intro s x
  refine ⟨⟨_, _, rfl, toNat_shrFlag _, s.flagThenReg_flagThenResult _ x _ ?_⟩,
    ⟨_, _, rfl, toNat_shlFlag _, s.flagThenReg_flagThenResult _ x _ ?_⟩⟩
  · rw [BitVec.toNat_ushiftRight, Nat.shiftRight_eq_div_pow, pow_one, s.toNat_getV_setFlag]
  · rw [BitVec.toNat_shiftLeft, Nat.shiftLeft_eq, pow_one, s.toNat_getV_setFlag]

/-! ### The flag as an operand -/

/-- With `VF` as the destination, what is left there is the result, not the flag (R151). -/
theorem State.getV_flagThenResult_flag (s : State) (f : Byte) (result : State → Byte) :
    (s.advance.flagThenResult f 15 result).getV 15 = result (s.advance.setFlag f) :=
  State.getV_setV_same _ 15 _

/-- As an operand, `VF` is the new flag (R151). -/
theorem State.getV_setFlag_flag (s : State) (f : Byte) : (s.setFlag f).getV 15 = f :=
  State.getV_setV_same s 15 f

/-- The flag write leaves every register but `VF` (R21). -/
theorem State.getV_setFlag_other (s : State) (f : Byte) {r : Nibble} (h : r ≠ 15) : (s.setFlag f).getV r = s.getV r :=
  State.getV_setV_other s f h.symm

/-- A flag has no bit left after a right shift (R148). -/
theorem shrFlag_ushiftRight (a : Byte) : shrFlag a >>> 1 = 0 := by
  obtain h | h := shrFlag_eq a
  · rw [h]; rfl
  · rw [h]; rfl

/-- Twice the bit a left shift shifts out (R150). -/
theorem shlFlag_shiftLeft (a : Byte) : shlFlag a <<< 1 = if a.toNat ≥ 128 then 2 else 0 := by
  obtain h | h := shlFlag_eq a
  · have hf : 0 = a.toNat / 128 := by rw [← toNat_shlFlag, h]; rfl
    rw [h, if_neg (by omega)]
    rfl
  · have hf : 1 = a.toNat / 128 := by rw [← toNat_shlFlag, h]; rfl
    rw [h, if_pos (by omega)]
    rfl

/-- Settles O23: each operand that is `VF` is the new flag, each other operand is as before. -/
theorem flagAsOperand : Obligations.FlagAsOperand := by
  intro s y
  refine ⟨fun hy => ⟨⟨_, rfl, ?_⟩, ⟨_, rfl, ?_⟩, ⟨_, rfl, ?_⟩⟩, ⟨_, rfl, ?_⟩, ⟨_, rfl, ?_⟩, ⟨_, rfl, ?_⟩,
    ⟨_, rfl, ?_⟩, ⟨_, rfl, ?_⟩⟩
  · rw [State.getV_flagThenResult_flag, State.getV_setFlag_flag, State.getV_setFlag_other _ _ hy, State.getV_advance]
  · rw [State.getV_flagThenResult_flag, State.getV_setFlag_flag, State.getV_setFlag_other _ _ hy, State.getV_advance]
  · rw [State.getV_flagThenResult_flag, State.getV_setFlag_flag, State.getV_setFlag_other _ _ hy, State.getV_advance]
  · rw [State.getV_flagThenResult_flag, State.getV_setFlag_flag]
    exact BitVec.two_mul.symm
  · rw [State.getV_flagThenResult_flag, BitVec.sub_self]; rfl
  · rw [State.getV_flagThenResult_flag, BitVec.sub_self]; rfl
  · rw [State.getV_flagThenResult_flag, State.getV_setFlag_flag, shrFlag_ushiftRight]
  · rw [State.getV_flagThenResult_flag, State.getV_setFlag_flag, shlFlag_shiftLeft]

end Sys2Proof.Machine
end

section
/-! PROOFS. Index, random and draw (spec/42_index_random_draw.md, R211): the two index loads, the masked byte, what
`DRW` leaves when it does not fault (`State.drawn`), and the statements about `DRW` derived from it. -/

namespace Sys2Proof.Machine

/-! ### Index and random -/

/-- Five times a byte fits in the index register (R211). -/
theorem toNat_zextByte_mul_glyphSize (b : Byte) :
    (zextByte b * BitVec.ofNat 16 Config.glyphSize).toNat = b.toNat * 5 := by
  have hfive : (BitVec.ofNat 16 Config.glyphSize).toNat = 5 := rfl
  rw [BitVec.toNat_mul, toNat_zextByte, hfive, Nat.mod_eq_of_lt (by omega)]

/-- Settles O24: both values as numbers; the product does not wrap. -/
theorem indexLoads : Obligations.IndexLoads := by
  intro s x nnn
  exact ⟨⟨_, rfl, toNat_zextAddr nnn, rfl⟩, ⟨_, rfl, toNat_zextByte_mul_glyphSize _, rfl⟩⟩

/-- A masked byte has no bit that its mask lacks (R172). -/
theorem mask_and_not (mask b : Byte) : mask &&& b &&& ~~~mask = 0 := by
  rw [BitVec.and_comm mask b, BitVec.and_assoc, BitVec.and_not_self]
  exact BitVec.and_zero

/-- Settles O26: the register holds the masked byte, and the masks `0x00` and `0xFF` give nothing and the whole byte. -/
theorem randomIsMasked : Obligations.RandomIsMasked := by
  intro s x nn
  refine ⟨_, rfl, State.getV_setV_same _ x _, ?_, fun h0 => ?_, fun h1 => ?_,
    fun r hr => State.getV_setV_other _ _ hr.symm, rfl⟩
  · rw [State.getV_setV_same, mask_and_not]
  · rw [State.getV_setV_same, h0]
    exact BitVec.zero_and
  · rw [State.getV_setV_same, h1]
    exact BitVec.allOnes_and

/-! ### What `DRW` does -/

section
variable {s t : State} {x y n : Nibble}

/-- What `DRW` leaves of `s` when it does not fault: the cells toggled, the collision in `VF` (R173). -/
def State.drawn (s : State) (x y n : Nibble) : State :=
  (s.advance.setFlag (flagByte (drawCells (s.drwCells x y n) s.fb false).2)).setFb
    (drawCells (s.drwCells x y n) s.fb false).1

/-- A row above `0xFFF` is the first thing `DRW` checks (R173, R233). -/
theorem execDrw_eq_raise_data (hn : n.toNat ≠ 0) (h : 0x1000 < s.idx.toNat + n.toNat) :
    execDrw x y n s = s.raise (.dataOutOfRange (max s.idx.toNat 0x1000)) := by
  rw [execDrw, (s.dataFault_eq_some n.toNat _).2 ⟨hn, h, rfl⟩]

/-- With its rows in memory, `DRW` faults at the first cell off the grid (R173, R233). -/
theorem execDrw_eq_raise_display {p : Nat × Nat} (hd : s.dataFault n.toNat = none)
    (hp : offGrid? (s.drwCells x y n) = some p) : execDrw x y n s = s.raise (.displayOutOfRange p.1 p.2) := by
  rw [execDrw, hd, hp]

/-- With its rows in memory and its cells on the grid, `DRW` draws (R173). -/
theorem execDrw_eq_drawn (hd : s.dataFault n.toNat = none) (hp : offGrid? (s.drwCells x y n) = none) :
    execDrw x y n s = .next (s.drawn x y n) := by
  rw [execDrw, hd, hp]
  rfl

/-- Fault entry leaves a fault recorded (R232). -/
theorem fault_ne_none_of_raise {c : FaultCause} (h : s.raise c = .next t) : t.fault ≠ none := by
  cases h
  exact Option.some_ne_none _

/-- A `DRW` that leaves no fault recorded has passed both checks and drawn (R173, R233). -/
theorem drawn_of_execDrw (h : execDrw x y n s = .next t) (ht : t.fault = none) :
    s.dataFault n.toNat = none ∧ offGrid? (s.drwCells x y n) = none ∧ t = s.drawn x y n := by
  unfold execDrw at h
  split at h
  next => exact absurd ht (fault_ne_none_of_raise h)
  next hd =>
    split at h
    next => exact absurd ht (fault_ne_none_of_raise h)
    next hp => exact ⟨hd, hp, (Host.Outcome.next.inj h).symm⟩

/-- The cells after a draw on the grid: the exclusive or of the cells before with the sprite (R173). -/
theorem State.cell_drawn (hp : offGrid? (s.drwCells x y n) = none) (px py : Nat) :
    Framebuffer.cell (s.drawn x y n).fb px py =
      (decide ((px, py) ∈ s.drwCells x y n) ^^ Framebuffer.cell s.fb px py) := by
  have hcell := drawCells_cell _ s.fb false ((offGrid?_eq_none _).1 hp) (s.nodup_drwCells x y n) px py
  rw [State.drawn, State.setFb_fb, hcell]
  by_cases h : (px, py) ∈ s.drwCells x y n <;> simp [h]

/-- `VF` after a draw is a flag (R21). -/
theorem State.getV_drawn_flag (s : State) (x y n : Nibble) :
    (s.drawn x y n).getV 15 = flagByte (drawCells (s.drwCells x y n) s.fb false).2 :=
  State.getV_setFlag_flag _ _

/-- A draw leaves every register but `VF` (R173). -/
theorem State.getV_drawn_other (s : State) (x y n : Nibble) {r : Nibble} (h : r ≠ 15) :
    (s.drawn x y n).getV r = s.getV r :=
  State.getV_setFlag_other _ _ h

/-- `VF` after a draw on the grid: some set bit of the sprite fell on a set cell (R173). -/
theorem State.getV_drawn_flag_eq_one (hp : offGrid? (s.drwCells x y n) = none) :
    (s.drawn x y n).getV 15 = 1 ↔ ∃ p, s.spriteBit x y n p ∧ Framebuffer.cell s.fb p.1 p.2 = true := by
  have hhit := drawCells_hit _ s.fb false ((offGrid?_eq_none _).1 hp) (s.nodup_drwCells x y n)
  rw [State.getV_drawn_flag, flagByte_eq_one, hhit, Bool.false_or, List.any_eq_true]
  simp only [State.mem_drwCells]

/-- Row `r` of the sprite is the byte at `I + r` (R63, R173). -/
theorem State.getD_sprite (s : State) {r : Nat} (hr : r < n.toNat) :
    (Memory.readBytes s.mem s.idx.toNat n.toNat).getD r 0 = Memory.read s.mem (s.idx.toNat + r) := by
  rw [List.getD_eq_getElem _ _ (by rwa [Memory.length_readBytes]), Memory.getElem_readBytes]

/-- The first set bit off the grid, in row-major order, is the cell the display fault records (R173, R233). -/
theorem State.offGrid?_drwCells {r c : Nat} (hr : r < n.toNat) (hc : c < 8) (hb : s.rowBit r c)
    (ho : 63 < (s.getV x).toNat + c ∨ 31 < (s.getV y).toNat + r)
    (hfirst : ∀ r' c', r' < n.toNat → c' < 8 → (r' < r ∨ (r' = r ∧ c' < c)) → s.rowBit r' c' →
      (s.getV x).toNat + c' ≤ 63 ∧ (s.getV y).toNat + r' ≤ 31) :
    offGrid? (s.drwCells x y n) = some ((s.getV x).toNat + c, (s.getV y).toNat + r) := by
  refine offGrid?_first _ _ _ r c (by rwa [Memory.length_readBytes]) hc (by rwa [s.getD_sprite hr]) ho
    fun r' c' hr' hc' hbefore hb' => ?_
  rw [Memory.length_readBytes] at hr'
  rw [s.getD_sprite hr'] at hb'
  exact hfirst r' c' hr' hc' hbefore hb'

/-- With `X` and `Y` other than 15, a draw moves neither the sprite nor its corner (R173, D13). -/
theorem State.drwCells_drawn (hx : x ≠ 15) (hy : y ≠ 15) :
    (s.drawn x y n).drwCells x y n = s.drwCells x y n := by
  unfold State.drwCells
  rw [State.getV_drawn_other s x y n hx, State.getV_drawn_other s x y n hy]
  rfl

/-- Drawing the same cells twice gives back the framebuffer (R174). -/
theorem State.fb_drawn_drawn (hx : x ≠ 15) (hy : y ≠ 15) (hp : offGrid? (s.drwCells x y n) = none) :
    ((s.drawn x y n).drawn x y n).fb = s.fb := by
  have hcells := s.drwCells_drawn (n := n) hx hy
  refine Framebuffer.ext_cells _ _ fun px py _ _ => ?_
  rw [State.cell_drawn (hcells ▸ hp), hcells, State.cell_drawn hp, ← Bool.xor_assoc, Bool.xor_self, Bool.false_xor]

/-- The second of two equal draws collides exactly when the first one set a cell (R174). -/
theorem State.getV_drawn_drawn_flag_eq_one (hx : x ≠ 15) (hy : y ≠ 15) (hp : offGrid? (s.drwCells x y n) = none) :
    ((s.drawn x y n).drawn x y n).getV 15 = 1 ↔
      ∃ p, s.spriteBit x y n p ∧ Framebuffer.cell s.fb p.1 p.2 = false := by
  have hcells := s.drwCells_drawn (n := n) hx hy
  rw [State.getV_drawn_flag_eq_one (hcells ▸ hp)]
  refine exists_congr fun p => ?_
  rw [← State.mem_drwCells, ← State.mem_drwCells, hcells]
  refine and_congr_right fun hmem => ?_
  rw [State.cell_drawn hp, decide_eq_true hmem, Bool.true_xor, Bool.not_eq_true']

end

/-- Settles O27: the data check, then the grid check, then the draw, each in the terms of the sprite's set bits. -/
theorem drawSprite : Obligations.DrawSprite := by
  intro s x y n
  refine ⟨fun hn hrow => execDrw_eq_raise_data (by omega) (by omega), fun hrows => ?_⟩
  have hd : s.dataFault n.toNat = none := by
    refine (s.dataFault_eq_none _).2 (hrows.imp (congrArg BitVec.toNat) fun h => ?_)
    omega
  refine ⟨fun r c hr hc hb ho hfirst => execDrw_eq_raise_display hd (s.offGrid?_drwCells hr hc hb ho hfirst),
    fun hgrid => ?_⟩
  have hp : offGrid? (s.drwCells x y n) = none := by
    refine (offGrid?_eq_none _).2 fun p hmem => ?_
    obtain ⟨hpx, hpy⟩ := hgrid p ((s.mem_drwCells x y n p).1 hmem)
    exact ⟨Nat.lt_succ_of_le hpx, Nat.lt_succ_of_le hpy⟩
  refine ⟨s.drawn x y n, execDrw_eq_drawn hd hp, fun px py => ?_, ?_, State.getV_drawn_flag_eq_one hp,
    fun r hr => s.getV_drawn_other x y n hr, rfl⟩
  · rw [State.cell_drawn hp, ← State.mem_drwCells]
    exact ⟨fun h => by rw [decide_eq_true h, Bool.true_xor], fun h => by rw [decide_eq_false h, Bool.false_xor]⟩
  · rw [State.getV_drawn_flag]
    exact flagByte_eq _

/-- Settles O28: the second draw passes the checks the first one passed, and toggles the same cells. -/
theorem drawTwiceRestores : Obligations.DrawTwiceRestores := by
  intro s t x y n hx hy hs hdraw ht
  obtain ⟨hd, hp, rfl⟩ := drawn_of_execDrw hdraw ht
  have hp' : offGrid? ((s.drawn x y n).drwCells x y n) = none := by rwa [State.drwCells_drawn hx hy]
  exact ⟨_, execDrw_eq_drawn hd hp', hs, State.fb_drawn_drawn hx hy hp, State.getV_drawn_drawn_flag_eq_one hx hy hp⟩

end Sys2Proof.Machine
end

section
/-! PROOFS. Keys and timers (spec/43_key_timer.md): the key skips and the wait-for-key by the lines of the keypad, the
timer moves. -/

namespace Sys2Proof.Machine

section
variable {s : State} {x : Nibble}

/-! ### The lines of the keypad -/

/-- A legal index reads its line (R28). -/
theorem State.keyLine?_val (s : State) (k : Fin 16) : s.keyLine? k.val = some s.key[k] :=
  s.keyLine?_eq_some k.val k.isLt

/-- The scan reads a line as pressed exactly when it is (R28). -/
theorem State.keyLine?_val_eq_some_true (s : State) (k : Fin 16) :
    s.keyLine? k.val = some true ↔ s.key[k] = true := by
  rw [State.keyLine?_val, Option.some.injEq]

/-- The line the scan ends with is pressed, and every line above it is released (R195). -/
theorem State.exists_highest_of_lastKey {m : Nat} (h : s.lastKey = some m) :
    ∃ k : Fin 16, m = k.val ∧ s.key[k] = true ∧ ∀ j : Fin 16, k < j → s.key[j] = false := by
  obtain ⟨hm, hpressed, habove⟩ := s.lastKey_eq_some m h
  refine ⟨⟨m, hm⟩, rfl, (s.keyLine?_val_eq_some_true ⟨m, hm⟩).1 hpressed, fun j hj => ?_⟩
  exact Bool.eq_false_iff.2 fun hkey => habove j.val hj j.isLt ((s.keyLine?_val_eq_some_true j).2 hkey)

/-- A pressed line with every line above it released is the one the scan ends with (R195). -/
theorem State.lastKey_eq_some_of_highest {k : Fin 16} (hk : s.key[k] = true)
    (habove : ∀ j : Fin 16, k < j → s.key[j] = false) : s.lastKey = some k.val := by
  cases h : s.lastKey with
  | none => exact absurd ((s.keyLine?_val_eq_some_true k).2 hk) (s.lastKey_eq_none h k.val k.isLt)
  | some m =>
    obtain ⟨i, rfl, hi, hiabove⟩ := State.exists_highest_of_lastKey h
    obtain hlt | rfl | hgt := lt_trichotomy i k
    · exact absurd hk (Bool.eq_false_iff.1 (hiabove k hlt))
    · rfl
    · exact absurd hi (Bool.eq_false_iff.1 (habove i hgt))

/-- With every line released the scan finds none (R195). -/
theorem State.lastKey_eq_none_of_released (hall : ∀ k : Fin 16, s.key[k] = false) : s.lastKey = none := by
  refine Option.eq_none_iff_forall_ne_some.2 fun m h => ?_
  obtain ⟨k, -, hk, -⟩ := State.exists_highest_of_lastKey h
  exact absurd hk (Bool.eq_false_iff.1 (hall k))

/-! ### The key skips -/

/-- `SKP` with a legal index skips on its line (R190). -/
theorem execSkp_eq_skipIf {k : Fin 16} (hk : (s.getV x).toNat = k.val) :
    execSkp x s = .next (s.advance.skipIf s.key[k]) := by
  rw [execSkp, hk, State.keyLine?_val]

/-- `SKNP` with a legal index skips on its line negated (R191). -/
theorem execSknp_eq_skipIf {k : Fin 16} (hk : (s.getV x).toNat = k.val) :
    execSknp x s = .next (s.advance.skipIf (!s.key[k])) := by
  rw [execSknp, hk, State.keyLine?_val]

/-- `SKP` with an index above 15 takes the fault `KeyIndexOutOfRange` of it (R190, D15). -/
theorem execSkp_eq_raise (h : 15 < (s.getV x).toNat) : execSkp x s = s.raise (.keyIndexOutOfRange (s.getV x)) := by
  rw [execSkp, s.keyLine?_eq_none _ h]

/-- `SKNP` with an index above 15 takes the fault `KeyIndexOutOfRange` of it (R191, D15). -/
theorem execSknp_eq_raise (h : 15 < (s.getV x).toNat) : execSknp x s = s.raise (.keyIndexOutOfRange (s.getV x)) := by
  rw [execSknp, s.keyLine?_eq_none _ h]

/-! ### The wait for a key -/

/-- `LD Vx,K` with a line for the scan to end with writes its index (R195). -/
theorem execLdVxK_eq_setV {k : Nat} (h : s.lastKey = some k) :
    execLdVxK x s = .next (s.advance.setV x (BitVec.ofNat 8 k)) := by
  rw [execLdVxK, h]

/-- `LD Vx,K` with no line pressed takes the advance back: the state is as before (R195). -/
theorem execLdVxK_eq_self (h : s.lastKey = none) : execLdVxK x s = .next s := by
  rw [execLdVxK, h, State.advance_rewind]

/-- The index of a line fits in a register (R195). -/
theorem toNat_ofNat_line (k : Fin 16) : (BitVec.ofNat 8 k.val).toNat = k.val := by
  rw [BitVec.toNat_ofNat, Nat.mod_eq_of_lt (k.isLt.trans (by decide))]

end

/-- Settles O29: a legal index makes the skip test its line, any other index has no line. -/
theorem keySkips : Obligations.KeySkips := by
  intro s x
  refine ⟨fun k hk => ⟨?_, ?_⟩, fun h => ⟨execSkp_eq_raise h, execSknp_eq_raise h⟩⟩
  · exact (execSkp_eq_skipIf hk).trans (congrArg _ (s.advance_skipIf_of_iff Iff.rfl))
  · exact (execSknp_eq_skipIf hk).trans (congrArg _ (s.advance_skipIf_of_iff (iff_of_eq (Bool.not_eq_true' _))))

/-- Settles O30: one register, or one timer, written after the advance. -/
theorem timerMoves : Obligations.TimerMoves := by
  intro s x
  exact ⟨⟨_, rfl, s.regWritten_setV x s.dt⟩, rfl, rfl⟩

/-- Settles O31: the ascending scan ends with the highest pressed line, and with none when all are released. -/
theorem waitForKey : Obligations.WaitForKey := by
  intro s x
  refine ⟨fun k hk habove => ⟨_, execLdVxK_eq_setV (State.lastKey_eq_some_of_highest hk habove), ?_⟩,
    fun hall => execLdVxK_eq_self (State.lastKey_eq_none_of_released hall)⟩
  have hwritten := s.regWritten_setV x (BitVec.ofNat 8 k.val)
  rwa [toNat_ofNat_line] at hwritten

end Sys2Proof.Machine
end

section
/-! PROOFS. Index arithmetic, decimal store and register block moves (spec/44_index_memory.md): the sum in `I` after
the flag write, the range check the three memory instructions share (`State.ifInRange`), and the byte at each offset. -/

namespace Sys2Proof.Machine

/-! ### The sum in the index register -/

/-- The flag of an index sum, as a number (R210). -/
theorem toNat_indexFlag (i : Word) (b : Byte) :
    (indexFlag i b).toNat = if i.toNat + b.toNat > 0xFFF then 1 else 0 := by
  simp only [indexFlag, toNat_flagByte, decide_eq_true_iff]

/-- A byte added to the index register, mod 65536 (R210, D34). -/
theorem toNat_add_zextByte (i : Word) (b : Byte) : (i + zextByte b).toNat = (i.toNat + b.toNat) % 65536 := by
  rw [BitVec.toNat_add, toNat_zextByte]

/-- Settles O25: the flag is of the values before, and the sum reads `V[X]` after the flag write. -/
theorem addToIndex : Obligations.AddToIndex := by
  intro s x
  refine ⟨_, _, rfl, toNat_indexFlag s.idx (s.getV x), fun r => ?_, ?_, rfl⟩
  · rw [State.getV_setIdx, State.toNat_getV_setFlag]
  · exact (toNat_add_zextByte s.idx _).trans (by rw [State.toNat_getV_setFlag])

/-! ### The range check before an access (R65, D10) -/

section
variable (s : State) (x : Nibble)

/-- The one shape of a memory instruction: the next state is `t` when the `count` bytes at `I` are in range, else the
one fault entry leaves. -/
def State.ifInRange (count : Nat) (t : State) : Result :=
  match s.dataFault count with
  | some c => s.raise c
  | none => .next t

/-- `LD B,Vx` stores three digits if they are in range (R212). -/
theorem exec_ldB : exec (.ldB x) s =
    s.ifInRange 3 (s.advance.setMem (Memory.writeBytes s.mem s.idx.toNat (decimalDigits (s.getV x)))) := rfl

/-- `LD [I],Vx` stores `X + 1` registers if they are in range (R213). -/
theorem exec_stBlock : exec (.stBlock x) s =
    s.ifInRange (x.toNat + 1) (s.advance.setMem (Memory.writeBytes s.mem s.idx.toNat (s.regsTo x))) := rfl

/-- `LD Vx,[I]` loads `X + 1` registers if they are in range (R214). -/
theorem exec_ldBlock : exec (.ldBlock x) s = s.ifInRange (x.toNat + 1) (s.advance.loadRegsTo x) := rfl

variable {s} {n : Nat} {t : State}

/-- With its last byte, at `I + n`, above `0xFFF` a memory instruction takes the fault of the first such byte (R65). -/
theorem State.takesFault_ifInRange (h : 0xFFF < s.idx.toNat + n) :
    TakesFault s (s.ifInRange (n + 1) t) (.dataOutOfRange (max s.idx.toNat 0x1000)) := by
  have hd := (s.dataFault_eq_some (n + 1) _).2 ⟨n.succ_ne_zero, by omega, rfl⟩
  rw [State.ifInRange, hd]
  rfl

/-- With its last byte, at `I + n`, at most at `0xFFF` a memory instruction does its update (R65). -/
theorem State.ifInRange_eq_next (h : s.idx.toNat + n ≤ 0xFFF) : s.ifInRange (n + 1) t = .next t := by
  have hd := (s.dataFault_eq_none (n + 1)).2 (.inr (by omega))
  rw [State.ifInRange, hd]

end

/-! ### The bytes stored and loaded -/

/-- A sequence of bytes stored at `a` puts byte `k` at `a + k` (R63). -/
theorem Memory.read_writeBytes_add {m : Memory} {a k : Nat} {bs : List Byte} (h : Memory.wf m = true)
    (ha : a + bs.length ≤ 4096) (hk : k < bs.length) :
    Memory.read (Memory.writeBytes m a bs) (a + k) = bs.getD k 0 := by
  rw [Memory.read_writeBytes bs m a _ h ha, if_pos (by omega), Nat.add_sub_cancel_left]

/-- The decimal digits of a byte, hundreds first: each fits in a byte (R212). -/
theorem toNat_getD_decimalDigits (b : Byte) :
    ((decimalDigits b).getD 0 0).toNat = b.toNat / 100 ∧ ((decimalDigits b).getD 1 0).toNat = b.toNat / 10 % 10 ∧
      ((decimalDigits b).getD 2 0).toNat = b.toNat % 10 :=
  ⟨Nat.mod_eq_of_lt (by omega), Nat.mod_eq_of_lt (by omega), Nat.mod_eq_of_lt (by omega)⟩

/-- Settles O32: the three digits in range are stored in order, and a digit out of range faults. -/
theorem decimalStore : Obligations.DecimalStore := by
  intro s x hwf
  rw [exec_ldB]
  refine ⟨State.takesFault_ifInRange, fun hrange => ?_⟩
  have hfit : s.idx.toNat + (decimalDigits (s.getV x)).length ≤ 4096 := Nat.succ_le_succ hrange
  have hstored : ∀ k < 3, Memory.read (Memory.writeBytes s.mem s.idx.toNat (decimalDigits (s.getV x)))
      (s.idx.toNat + k) = (decimalDigits (s.getV x)).getD k 0 := fun k => Memory.read_writeBytes_add hwf hfit
  obtain ⟨hhundreds, htens, hunits⟩ := toNat_getD_decimalDigits (s.getV x)
  refine ⟨_, State.ifInRange_eq_next hrange, ?_, ?_, ?_, fun a ha => ?_, rfl⟩
  · exact (congrArg BitVec.toNat (hstored 0 (by decide))).trans hhundreds
  · exact (congrArg BitVec.toNat (hstored 1 (by decide))).trans htens
  · exact (congrArg BitVec.toNat (hstored 2 (by decide))).trans hunits
  · exact Memory.read_writeBytes_outside _ _ _ a hwf hfit (by rw [length_decimalDigits]; omega)

/-- Settles O33: byte `r` of what is stored in range is register `r`, and a register out of range faults. -/
theorem blockStore : Obligations.BlockStore := by
  intro s x hwf
  rw [exec_stBlock]
  refine ⟨State.takesFault_ifInRange, fun hrange => ?_⟩
  have hlen : (s.regsTo x).length = x.toNat + 1 := s.length_regsTo x
  have hfit : s.idx.toNat + (s.regsTo x).length ≤ 4096 := by omega
  refine ⟨_, State.ifInRange_eq_next hrange, fun r hr => ?_, fun a ha => ?_, rfl⟩
  · have hlt : r.toNat < (s.regsTo x).length := hlen ▸ Nat.lt_succ_of_le hr
    exact (Memory.read_writeBytes_add hwf hfit hlt).trans (s.getD_regsTo x r hr)
  · exact Memory.read_writeBytes_outside _ _ _ a hwf hfit (by omega)

/-- Settles O34: the registers up to `X` are the bytes in range, and a byte out of range faults. -/
theorem blockLoad : Obligations.BlockLoad := by
  intro s x
  rw [exec_ldBlock]
  refine ⟨State.takesFault_ifInRange, fun hrange => ⟨_, State.ifInRange_eq_next hrange, fun r hr => ?_,
    fun r hr => ?_, rfl⟩⟩
  · exact (s.advance.getV_loadRegsTo x r).trans (if_pos hr)
  · exact (s.advance.getV_loadRegsTo x r).trans (if_neg (BitVec.not_le.2 hr))

end Sys2Proof.Machine
end

section
/-! PROOFS. The fault record (spec/60_exceptions.md R231, R232): which instruction raises which fault, said once
(`Raises`, `exec_fault_cases`), and that a cycle that faults changes nothing else. -/

namespace Sys2Proof.Machine

section
variable {s t u : State} {i : Instr} {x y n : Nibble}

/-- The table of R231, but for the fetch fault, which no instruction raises: `Raises s i c` when the check that `i`
makes in the state `s` finds the fault `c`. -/
inductive Raises (s : State) : Instr → FaultCause → Prop
  | call (nnn : Addr12) (h : 15 ≤ s.sp.toNat) : Raises s (.call nnn) (.stackOverflow s.sp)
  | ret (h : s.sp = 0) : Raises s .ret .stackUnderflow
  | ldB (x : Nibble) (h : 0xFFF < s.idx.toNat + 2) : Raises s (.ldB x) (.dataOutOfRange (max s.idx.toNat 0x1000))
  | stBlock (x : Nibble) (h : 0xFFF < s.idx.toNat + x.toNat) :
      Raises s (.stBlock x) (.dataOutOfRange (max s.idx.toNat 0x1000))
  | ldBlock (x : Nibble) (h : 0xFFF < s.idx.toNat + x.toNat) :
      Raises s (.ldBlock x) (.dataOutOfRange (max s.idx.toNat 0x1000))
  | drwRows (x y n : Nibble) (hn : 1 ≤ n.toNat) (h : 0xFFF < s.idx.toNat + n.toNat - 1) :
      Raises s (.drw x y n) (.dataOutOfRange (max s.idx.toNat 0x1000))
  | drwCell (x y n : Nibble) (px py : Nat) (h : s.spriteBit x y n (px, py)) (hoff : 63 < px ∨ 31 < py) :
      Raises s (.drw x y n) (.displayOutOfRange px py)
  | skp (x : Nibble) (h : 15 < (s.getV x).toNat) : Raises s (.skp x) (.keyIndexOutOfRange (s.getV x))
  | sknp (x : Nibble) (h : 15 < (s.getV x).toNat) : Raises s (.sknp x) (.keyIndexOutOfRange (s.getV x))

/-- A skip leaves the fault record (R126). -/
@[simp] theorem State.skipIf_fault (s : State) (c : Bool) : (s.skipIf c).fault = s.fault := by
  rw [State.skipIf_eq, State.setPc_fault]

/-- A memory instruction whose row of the table is its range check: it does its update, or takes the fault (R65). -/
theorem State.ifInRange_fault_cases {k : Nat} (h : s.ifInRange (k + 1) u = .next t) (hu : u.fault = s.fault)
    (hrow : 0xFFF < s.idx.toNat + k → Raises s i (.dataOutOfRange (max s.idx.toNat 0x1000))) :
    t.fault = s.fault ∨ ∃ c, Raises s i c ∧ t = s.takeFault c := by
  obtain hrange | hrange := Nat.lt_or_ge 0xFFF (s.idx.toNat + k)
  · exact .inr ⟨_, hrow hrange, Host.Outcome.next.inj (h.symm.trans (State.takesFault_ifInRange hrange))⟩
  · obtain rfl := Host.Outcome.next.inj ((State.ifInRange_eq_next hrange).symm.trans h)
    exact .inl hu

/-- A register is the index of a key line, or above 15 (R28, R190). -/
theorem State.keyIndex_cases (s : State) (x : Nibble) :
    (∃ k : Fin 16, (s.getV x).toNat = k.val) ∨ 15 < (s.getV x).toNat :=
  (Nat.lt_or_ge 15 (s.getV x).toNat).symm.imp_left fun hk => ⟨⟨_, Nat.lt_succ_of_le hk⟩, rfl⟩

/-- The cell a display fault records is off the grid, and a set bit of the sprite falls on it (R173, R231). -/
theorem State.spriteBit_of_offGrid? {p : Nat × Nat} (h : offGrid? (s.drwCells x y n) = some p) :
    s.spriteBit x y n p ∧ (63 < p.1 ∨ 31 < p.2) := by
  have hoff := List.find?_some h
  rw [Bool.or_eq_true, decide_eq_true_iff, decide_eq_true_iff] at hoff
  exact ⟨(s.mem_drwCells x y n p).1 (List.mem_of_find?_eq_some h), hoff⟩

theorem execDrw_fault_cases (h : execDrw x y n s = .next t) :
    t.fault = s.fault ∨ ∃ c, Raises s (.drw x y n) c ∧ t = s.takeFault c := by
  unfold execDrw at h
  split at h
  next c hd =>
    obtain ⟨hn, hrows, rfl⟩ := (s.dataFault_eq_some _ _).1 hd
    exact .inr ⟨_, .drwRows x y n (by omega) (by omega), (Host.Outcome.next.inj h).symm⟩
  next =>
    split at h
    next p hp =>
      obtain ⟨hbit, hoff⟩ := State.spriteBit_of_offGrid? hp
      exact .inr ⟨_, .drwCell x y n p.1 p.2 hbit hoff, (Host.Outcome.next.inj h).symm⟩
    next => cases h; exact .inl rfl

/-- An instruction leaves the fault record, or takes a fault of its row of the table (R231, R232). -/
theorem exec_fault_cases (h : exec i s = .next t) : t.fault = s.fault ∨ ∃ c, Raises s i c ∧ t = s.takeFault c := by
  cases i with
  | call nnn =>
    obtain hsp | hsp := Nat.lt_or_ge s.sp.toNat 15
    · cases (execCall_eq_push nnn hsp).symm.trans h; exact .inl rfl
    · cases (execCall_eq_raise nnn hsp).symm.trans h; exact .inr ⟨_, .call nnn hsp, rfl⟩
  | ret =>
    simp only [exec, execRet] at h
    split at h
    next hsp => cases h; exact .inr ⟨_, .ret hsp, rfl⟩
    next =>
      split at h
      next => cases h; exact .inl rfl
      next => cases h
  | ldB x => exact State.ifInRange_fault_cases h rfl (.ldB x)
  | stBlock x => exact State.ifInRange_fault_cases h rfl (.stBlock x)
  | ldBlock x => exact State.ifInRange_fault_cases h rfl (.ldBlock x)
  | drw x y n => exact execDrw_fault_cases h
  | skp x =>
    obtain ⟨k, hk⟩ | hk := s.keyIndex_cases x
    · cases (execSkp_eq_skipIf hk).symm.trans h; exact .inl (State.skipIf_fault _ _)
    · cases (execSkp_eq_raise hk).symm.trans h; exact .inr ⟨_, .skp x hk, rfl⟩
  | sknp x =>
    obtain ⟨k, hk⟩ | hk := s.keyIndex_cases x
    · cases (execSknp_eq_skipIf hk).symm.trans h; exact .inl (State.skipIf_fault _ _)
    · cases (execSknp_eq_raise hk).symm.trans h; exact .inr ⟨_, .sknp x hk, rfl⟩
  | seImm | sneImm | seReg | sneReg => cases h; exact .inl (State.skipIf_fault _ _)
  | ldVxK x =>
    simp only [exec, execLdVxK] at h
    split at h
    next => cases h; exact .inl rfl
    next => cases h; exact .inl rfl
  | _ => cases h; exact .inl rfl

/-- An instruction that leaves a fault recorded, on an unfaulted machine, has taken it (R231, R232). -/
theorem raises_of_exec {r : FaultRecord} (hs : s.fault = none) (h : exec i s = .next t) (ht : t.fault = some r) :
    Raises s i r.cause ∧ r.address = s.pc ∧ t = s.takeFault r.cause := by
  obtain hkeep | ⟨c, hc, rfl⟩ := exec_fault_cases h
  · rw [hkeep, hs] at ht
    cases ht
  · obtain rfl := Option.some.inj ht
    exact ⟨hc, rfl, rfl⟩

end

/-- Settles O39: the fault was raised by a row of the table, and each row says what the statement says of its cause. -/
theorem faultTable : Obligations.FaultTable := by
  intro i s t r hs h ht
  obtain ⟨hraises, -, -⟩ := raises_of_exec hs h ht
  cases hc : r.cause <;> rw [hc] at hraises
  case stackOverflow => cases hraises with | call nnn hsp => exact ⟨⟨nnn, rfl⟩, hsp, rfl⟩
  case stackUnderflow => cases hraises with | ret hsp => exact ⟨rfl, hsp⟩
  case fetchOutOfRange => cases hraises
  case dataOutOfRange =>
    cases hraises with
    | ldB x hrange => exact ⟨rfl, .inl ⟨x, rfl, hrange⟩⟩
    | stBlock x hrange => exact ⟨rfl, .inr (.inl ⟨x, .inl rfl, hrange⟩)⟩
    | ldBlock x hrange => exact ⟨rfl, .inr (.inl ⟨x, .inr rfl, hrange⟩)⟩
    | drwRows x y n hn hrange => exact ⟨rfl, .inr (.inr ⟨x, y, n, rfl, hn, hrange⟩)⟩
  case displayOutOfRange => cases hraises with | drwCell x y n _ _ hbit hoff => exact ⟨hoff, x, y, n, rfl, hbit⟩
  case keyIndexOutOfRange =>
    cases hraises with
    | skp x hk => exact ⟨⟨x, .inl rfl, rfl⟩, hk⟩
    | sknp x hk => exact ⟨⟨x, .inr rfl, rfl⟩, hk⟩

/-- A cycle that leaves a fault recorded has taken it, at the pointer's address (R232). -/
theorem takeFault_of_cycle {s t : State} {r : FaultRecord} (h : cycle s = .next t) (ht : t.fault = some r) :
    r.address = s.pc ∧ t = s.takeFault r.cause := by
  obtain ⟨-, hs, ⟨-, rfl⟩ | ⟨-, i, u, -, hu, rfl⟩⟩ := cycle_eq_next h
  · obtain rfl := Option.some.inj ht
    exact ⟨rfl, rfl⟩
  · by_cases hf : u.fault.isSome = true
    · rw [if_pos hf] at ht ⊢
      exact (raises_of_exec hs hu ht).2
    · rw [if_neg hf, State.checkBreakpoint_eq, State.setRun_fault] at ht
      exact absurd (Option.isSome_iff_exists.2 ⟨r, ht⟩) hf

/-- Settles O40: with no event waiting a step is a cycle, and a cycle that faults has taken the fault. -/
theorem faultsArePrecise : Obligations.FaultsArePrecise := by
  intro s t r hin _ h ht
  rw [step_eq_cycle hin] at h
  obtain ⟨haddress, rfl⟩ := takeFault_of_cycle h ht
  refine ⟨haddress, ?_⟩
  rw [State.takeFault_fault] at ht
  rw [State.takeFault, ht]

end Sys2Proof.Machine
end

section
/-! PROOFS. What a program can observe (spec/60_exceptions.md R255): a state is a program's view with the host's part
of another state around it (`State.withHostOf`), and no instruction reads that part. -/

namespace Sys2Proof.Machine

section
variable {s t : State} {o o' : Result}

/-- The part of `s` a program deals with, and the rest (`RUN`, `BP`, `DIS`, `PROG`, `IPS`, `T0`, `EXEC`, `LOADED` and
the model's own event list and counter) of `h` (R255). -/
def State.withHostOf (s h : State) : State :=
  { h with
    v := s.v, idx := s.idx, pc := s.pc, sp := s.sp, stack := s.stack, dt := s.dt, st := s.st, mem := s.mem
    fb := s.fb, key := s.key, fault := s.fault, randDraws := s.randDraws }

/-- Two states of one view differ in the host's part alone. -/
theorem State.eq_withHostOf (h : s.programView = t.programView) : t = s.withHostOf t := by
  simp only [State.programView, ProgramView.mk.injEq] at h
  obtain ⟨hv, hidx, hpc, hsp, hstack, hdt, hst, hmem, hfb, hkey, hfault, hdraws⟩ := h
  simp only [State.withHostOf, hv, hidx, hpc, hsp, hstack, hdt, hst, hmem, hfb, hkey, hfault, hdraws]

/-! What an instruction decides on is in the program's view. -/

@[simp] theorem State.withHostOf_sp (s h : State) : (s.withHostOf h).sp = s.sp := rfl
@[simp] theorem State.withHostOf_stack (s h : State) : (s.withHostOf h).stack = s.stack := rfl
@[simp] theorem State.getV_withHostOf (s h : State) (x : Nibble) : (s.withHostOf h).getV x = s.getV x := rfl
@[simp] theorem State.keyLine?_withHostOf (s h : State) (k : Nat) : (s.withHostOf h).keyLine? k = s.keyLine? k := rfl
@[simp] theorem State.lastKey_withHostOf (s h : State) : (s.withHostOf h).lastKey = s.lastKey := rfl
@[simp] theorem State.dataFault_withHostOf (s h : State) (n : Nat) : (s.withHostOf h).dataFault n = s.dataFault n := rfl
@[simp] theorem State.drwCells_withHostOf (s h : State) (x y n : Nibble) :
    (s.withHostOf h).drwCells x y n = s.drwCells x y n := rfl

/-- A skip on one condition keeps two states of one view so (R126). -/
theorem State.programView_skipIf_withHostOf (c : Bool) :
    (s.advance.skipIf c).programView = ((s.withHostOf t).advance.skipIf c).programView := by
  cases c <;> rfl

/-- No instruction reads the host's part of the state: both machines decide alike, and what they write is in the
program's view (R255). -/
theorem exec_withHostOf (i : Instr) : SameToProgram (exec i s) (exec i (s.withHostOf t)) := by
  cases i with
  | seImm | sneImm | seReg | sneReg => exact State.programView_skipIf_withHostOf _
  | skp x | sknp x =>
    simp only [exec, execSkp, execSknp, State.keyLine?_withHostOf, State.getV_withHostOf]
    cases s.keyLine? (s.getV x).toNat with
    | some pressed => exact State.programView_skipIf_withHostOf _
    | none => exact rfl
  | ret =>
    simp only [exec]
    by_cases hsp : s.sp = 0
    · rw [execRet_eq_raise hsp, execRet_eq_raise (s := s.withHostOf t) hsp]
      exact rfl
    · have ht : ¬(s.withHostOf t).sp = 0 := hsp
      rw [execRet, execRet, if_neg hsp, if_neg ht, State.withHostOf_sp, State.withHostOf_stack]
      cases s.stack[(s.sp - 1).toNat]? <;> exact rfl
  | call nnn =>
    simp only [exec]
    obtain hsp | hsp := Nat.lt_or_ge s.sp.toNat 15
    · rw [execCall_eq_push nnn hsp, execCall_eq_push nnn (s := s.withHostOf t) hsp]
      exact rfl
    · rw [execCall_eq_raise nnn hsp, execCall_eq_raise nnn (s := s.withHostOf t) hsp]
      exact rfl
  | ldVxK x =>
    simp only [exec, execLdVxK, State.lastKey_withHostOf]
    cases s.lastKey <;> exact rfl
  | ldB x =>
    simp only [exec, execLdB, State.dataFault_withHostOf]
    cases s.dataFault 3 <;> exact rfl
  | stBlock x | ldBlock x =>
    simp only [exec, execStBlock, execLdBlock, State.dataFault_withHostOf]
    cases s.dataFault (x.toNat + 1) <;> exact rfl
  | drw x y n =>
    simp only [exec, execDrw, State.dataFault_withHostOf, State.drwCells_withHostOf]
    cases s.dataFault n.toNat with
    | some c => exact rfl
    | none => cases offGrid? (s.drwCells x y n) <;> exact rfl
  | _ => exact rfl

/-- The breakpoint check is invisible to a program (R245, R255). -/
@[simp] theorem State.programView_checkBreakpoint (s : State) : s.checkBreakpoint.programView = s.programView := by
  rw [State.checkBreakpoint_eq]
  rfl

/-- The end of a cycle keeps two outcomes indistinguishable (R245, R255). -/
theorem SameToProgram.endCycle (h : SameToProgram o o') : SameToProgram (endCycle o) (endCycle o') := by
  cases o with
  | next u =>
    cases o' with
    | next u' =>
      have hview : u.programView = u'.programView := h
      have hfault : u.fault = u'.fault := congrArg ProgramView.fault hview
      rw [endCycle_next, endCycle_next, hfault]
      cases u'.fault with
      | none =>
        have hbp := State.programView_checkBreakpoint
        exact (hbp u).trans (hview.trans (hbp u').symm)
      | some r => exact hview
    | _ => exact h
  | _ => cases o' <;> exact h

/-- A cycle of two loaded machines, or of two before a load, reads the program's view alone (R255). -/
theorem cycle_withHostOf (hl : s.loaded = t.loaded) : SameToProgram (cycle s) (cycle (s.withHostOf t)) := by
  cases hs : s.loaded with
  | false =>
    rw [cycle_of_not_loaded hs, cycle_of_not_loaded (s := s.withHostOf t) (hl ▸ hs)]
    exact rfl
  | true =>
    have ht : (s.withHostOf t).loaded = true := hl ▸ hs
    by_cases hf : s.fault = none
    · cases hw : s.fetchWord with
      | none =>
        rw [cycle_eq_fetchFault hs hf hw, cycle_eq_fetchFault (s := s.withHostOf t) ht hf hw]
        exact rfl
      | some w =>
        rw [cycle_eq_runWord hs hf hw, cycle_eq_runWord (s := s.withHostOf t) ht hf hw, runWord, runWord]
        cases decode w with
        | ok i => exact (exec_withHostOf i).endCycle
        | error e => exact rfl
    · rw [cycle_of_faulted hs hf, cycle_of_faulted (s := s.withHostOf t) ht hf]
      exact rfl

end

/-- Settles O41: with no event waiting a step is a cycle, and the second machine is the first with its own host's
part. -/
theorem debugStateIsInvisible : Obligations.DebugStateIsInvisible := by
  intro s t hs ht hl hview
  rw [step_eq_cycle hs, step_eq_cycle ht, State.eq_withHostOf hview]
  exact cycle_withHostOf hl

end Sys2Proof.Machine
end

section
/-! PROOFS. The events from outside (spec/60_exceptions.md R235 to R254). Each operation is said once, by the cases of
its check; the statements about the operations, about a faulted machine, and about what the events of the host leave
alone are read off these. -/

namespace Sys2Proof.Machine

section
variable {s t : State}

/-! ### The next transition -/

/-- With an event waiting a step is the oldest one, taken from the list (R11, R236; log 1). -/
theorem step_eq_applyEvent {e : HostEvent} {rest : List HostEvent} (hin : s.inbox = e :: rest) :
    step s = applyEvent e { s with inbox := rest } := by
  simp only [step, transition, hin]

/-! ### `Start` and `SingleStep` -/

theorem start_of_not_loaded (now : Nat) (hl : s.loaded = false) : start now s = .refused .notLoaded :=
  if_pos hl

theorem start_of_faulted (now : Nat) (hl : s.loaded = true) (hf : s.fault ≠ none) : start now s = .next s := by
  simp [start, hl, Option.isSome_iff_ne_none.2 hf]

theorem start_eq_next (now : Nat) (hl : s.loaded = true) (hf : s.fault = none) :
    start now s = .next ((s.setRun true).pacingReset now) := by
  simp [start, hl, hf]

theorem singleStep_of_not_loaded (hl : s.loaded = false) : singleStep s = .refused .notLoaded :=
  if_pos hl

theorem singleStep_of_faulted (hl : s.loaded = true) (hf : s.fault ≠ none) : singleStep s = .next s := by
  simp [singleStep, hl, Option.isSome_iff_ne_none.2 hf]

theorem singleStep_eq_cycle (hl : s.loaded = true) (hf : s.fault = none) : singleStep s = cycle s := by
  simp [singleStep, hl, hf]

/-! ### `SetKey` and `TimerTick` -/

theorem setKey_eq_next {k : Nat} (b : Bool) (h : k < 16) :
    setKey k b s = .next { s with key := s.key.set k b } :=
  dif_pos h

theorem setKey_eq_refused {k : Nat} (b : Bool) (h : 16 ≤ k) : setKey k b s = .refused (.keyIndexOutsideDomain k) :=
  dif_neg (not_lt.2 h)

theorem timerTick_of_running (h : s.run = true) :
    timerTick s = .next { s with dt := countDown s.dt, st := countDown s.st } :=
  if_pos h

theorem timerTick_of_stopped (h : s.run = false) : timerTick s = .next s := by
  simp [timerTick, h]

/-- A countdown is the subtraction of 1 on natural numbers, which holds at zero (R246, D16). -/
theorem toNat_countDown (b : Byte) : (countDown b).toNat = b.toNat - 1 := by
  unfold countDown
  split
  next h => rw [h]; rfl
  next h => bv_omega

/-! ### `ToggleBreakpoint` -/

/-- The breakpoint set with membership of `a` changed (R244). -/
def bpToggle (a : Word) (l : List Word) : List Word := if a ∈ l then bpErase a l else bpInsert a l

theorem toggleBreakpoint_eq_next (hl : s.loaded = true) :
    toggleBreakpoint s = .next { s with run := false, bp := bpToggle s.pc s.bp } := by
  by_cases hm : s.pc ∈ s.bp
  · simp [toggleBreakpoint, bpToggle, State.setRun, hl, hm]
  · simp [toggleBreakpoint, bpToggle, State.setRun, hl, hm]

theorem toggleBreakpoint_of_not_loaded (hl : s.loaded = false) : toggleBreakpoint s = .refused .notLoaded :=
  if_pos hl

/-- Toggling changes the membership of the one address (R244). -/
theorem mem_bpToggle_self (a : Word) (l : List Word) : a ∈ bpToggle a l ↔ a ∉ l := by
  unfold bpToggle
  split
  next h => simp [mem_bpErase, h]
  next h => simp [mem_bpInsert, h]

theorem mem_bpToggle_other {a b : Word} (l : List Word) (h : b ≠ a) : b ∈ bpToggle a l ↔ b ∈ l := by
  unfold bpToggle
  split
  · simp [mem_bpErase, h]
  · simp [mem_bpInsert, h]

theorem bpSorted_toggle (a : Word) {l : List Word} (h : bpSorted l = true) : bpSorted (bpToggle a l) = true := by
  unfold bpToggle
  split
  · exact bpSorted_erase a l h
  · exact bpSorted_insert a l h

/-- Toggling twice gives the set back: it has the same members in the one form (R244; log 18). -/
theorem bpToggle_bpToggle (a : Word) {l : List Word} (h : bpSorted l = true) : bpToggle a (bpToggle a l) = l := by
  refine bpSorted_ext _ _ (bpSorted_toggle a (bpSorted_toggle a h)) h fun b => ?_
  by_cases hb : b = a
  · rw [hb, mem_bpToggle_self, mem_bpToggle_self, not_not]
  · rw [mem_bpToggle_other _ hb, mem_bpToggle_other _ hb]

/-! ### The drivers on a faulted machine -/

/-- A driver executes nothing on a faulted machine (R234, R296, R297). -/
theorem driveLoop_of_faulted (go : State → Bool) (count : State → State) (n : Nat) (hf : s.fault ≠ none) :
    driveLoop go count n s = .next s := by
  cases n with
  | zero => rfl
  | succ n => simp [driveLoop, hf]

/-- `CatchUp` that completes on a faulted machine has changed nothing (R234, R296). -/
theorem eq_of_catchUp_of_faulted {now : Nat} (hf : s.fault ≠ none) (h : catchUp now s = .next t) : t = s := by
  unfold catchUp at h
  split at h
  · cases h
  split at h
  · cases h
  split at h
  · cases h
  rw [driveLoop_of_faulted _ _ _ hf] at h
  exact (Host.Outcome.next.inj h).symm

/-- `ExecuteForDuration` on a faulted machine makes its pacing reset and no cycle (R234, R297). -/
theorem executeForDuration_of_faulted (now ms : Nat) (hl : s.loaded = true) (hf : s.fault ≠ none) :
    executeForDuration now ms s = .next (s.warpStart now) := by
  have hstart : (s.warpStart now).fault ≠ none := hf
  rw [executeForDuration, if_neg (by simp [hl]), warpLoop, driveLoop_of_faulted _ _ _ hstart]

end

/-! ### The statements -/

/-- Settles O11, by what a step does with an event waiting. -/
theorem waitingEventComesFirst : Obligations.WaitingEventComesFirst := by
  intro s e rest hin
  exact step_eq_applyEvent hin

/-- Settles O46: the three cases of `Start`, and `Stop`, which has one. -/
theorem startAndStop : Obligations.StartAndStop := by
  intro s now
  exact ⟨start_eq_next now, start_of_faulted now, start_of_not_loaded now, rfl⟩

/-- Settles O47: on a loaded, unfaulted machine `SingleStep` is a cycle, as a step with no event waiting is. -/
theorem singleStepIsOneCycle : Obligations.SingleStepIsOneCycle := by
  intro s
  refine ⟨singleStep_eq_cycle, fun hl hf hin => ?_, singleStep_of_faulted, singleStep_of_not_loaded⟩
  rw [step_eq_cycle hin]
  exact singleStep_eq_cycle hl hf

/-- Settles O48: a line of the keypad after a write of line `k`. -/
theorem setKeyWritesOneLine : Obligations.SetKeyWritesOneLine := by
  intro s k b
  refine ⟨fun hk => ⟨_, setKey_eq_next b hk, fun j => ?_, rfl⟩, setKey_eq_refused b⟩
  simp [Vector.getElem_set, eq_comm]

/-- Settles O49: the pointer's membership is toggled, every other address keeps its own, and two toggles cancel. -/
theorem toggleTwiceRestoresBreakpoints : Obligations.ToggleTwiceRestoresBreakpoints := by
  intro s hl hsorted
  have hback := toggleBreakpoint_eq_next (s := { s with run := false, bp := bpToggle s.pc s.bp }) hl
  rw [bpToggle_bpToggle s.pc hsorted] at hback
  exact ⟨_, toggleBreakpoint_eq_next hl, rfl, mem_bpToggle_self s.pc s.bp, fun a => mem_bpToggle_other s.bp, hback⟩

/-- Settles O50: a running machine counts both timers down, a stopped one neither. -/
theorem tickCountsDownWhileRunning : Obligations.TickCountsDownWhileRunning := by
  intro s
  exact ⟨fun h => ⟨_, timerTick_of_running h, toNat_countDown s.dt, toNat_countDown s.st, rfl⟩, timerTick_of_stopped⟩

/-- Settles O51: the rate after `DecreaseSpeed` is the greater of the minimum, at least 1, and the difference. -/
theorem speedChangesResetThePacer : Obligations.SpeedChangesResetThePacer := by
  intro s now
  have hmin : 1 ≤ Config.speedMin := Nat.succ_pos _
  refine ⟨rfl, _, rfl, ?_, le_max_left _ _, fun h => ?_, fun h => ?_, rfl⟩
  · exact hmin.trans (le_max_left _ _)
  · show max Config.speedMin (s.ips - Config.speedStep) + Config.speedStep = s.ips
    omega
  · show max Config.speedMin (s.ips - Config.speedStep) = Config.speedMin
    omega

/-- Settles O55: on a faulted, stopped machine an event does nothing, or changes what its own rule names, of which a
program sees the keypad alone. -/
theorem onlyLoadLeavesAFault : Obligations.OnlyLoadLeavesAFault := by
  intro s t e hl hf hrun h hload
  cases e with
  | load image name path => exact absurd rfl (hload image name path)
  | start now => cases (start_of_faulted now hl hf).symm.trans h; exact ⟨rfl, hrun⟩
  | singleStep => cases (singleStep_of_faulted hl hf).symm.trans h; exact ⟨rfl, hrun⟩
  | catchUp now => obtain rfl := eq_of_catchUp_of_faulted hf h; exact ⟨rfl, hrun⟩
  | executeForDuration now ms => cases (executeForDuration_of_faulted now ms hl hf).symm.trans h; exact ⟨rfl, hrun⟩
  | setKey k b =>
    obtain hk | hk := Nat.lt_or_ge k 16
    · cases (setKey_eq_next b hk).symm.trans h; exact ⟨rfl, hrun⟩
    · cases (setKey_eq_refused b hk).symm.trans h
  | toggleBreakpoint => cases (toggleBreakpoint_eq_next hl).symm.trans h; exact ⟨rfl, rfl⟩
  | timerTick => cases (timerTick_of_stopped hrun).symm.trans h; exact ⟨rfl, hrun⟩
  | stop => cases h; exact ⟨rfl, rfl⟩
  | increaseSpeed | decreaseSpeed | isRunning | snapshot | exportMemoryImage => cases h; exact ⟨rfl, hrun⟩

/-- The parts R251 lists: `V`, `I`, `pc`, `SP`, `STACK`, `MEM` and `FB`. -/
def State.drivenParts (s : State) :
    Vector Byte Config.regCount × Word × Word × Byte × Vector Word Config.stackSize × Memory × Framebuffer :=
  (s.v, s.idx, s.pc, s.sp, s.stack, s.mem, s.fb)

/-- Settles O56: an event other than the four writes `RUN`, the pacing state, the keypad, the breakpoints or the
timers. -/
theorem otherEventsLeaveProgramState : Obligations.OtherEventsLeaveProgramState := by
  intro s t e h hsingle hcatch hwarp hload
  suffices hparts : t.drivenParts = s.drivenParts by simpa only [State.drivenParts, Prod.mk.injEq] using hparts
  cases e with
  | load image name path => exact absurd rfl (hload image name path)
  | singleStep => exact absurd rfl hsingle
  | catchUp now => exact absurd rfl (hcatch now)
  | executeForDuration now ms => exact absurd rfl (hwarp now ms)
  | start now =>
    cases hl : s.loaded with
    | false => cases (start_of_not_loaded now hl).symm.trans h
    | true =>
      by_cases hf : s.fault = none
      · cases (start_eq_next now hl hf).symm.trans h; rfl
      · cases (start_of_faulted now hl hf).symm.trans h; rfl
  | setKey k b =>
    obtain hk | hk := Nat.lt_or_ge k 16
    · cases (setKey_eq_next b hk).symm.trans h; rfl
    · cases (setKey_eq_refused b hk).symm.trans h
  | toggleBreakpoint =>
    cases hl : s.loaded with
    | false => cases (toggleBreakpoint_of_not_loaded hl).symm.trans h
    | true => cases (toggleBreakpoint_eq_next hl).symm.trans h; rfl
  | timerTick =>
    cases hrun : s.run with
    | true => cases (timerTick_of_running hrun).symm.trans h; rfl
    | false => cases (timerTick_of_stopped hrun).symm.trans h; rfl
  | stop | increaseSpeed | decreaseSpeed | isRunning | snapshot | exportMemoryImage =>
    cases h; rfl

end Sys2Proof.Machine
end

section
/-! PROOFS. The disassembler (spec/60_exceptions.md R254, spec/30_encoding.md R102): only the no-op has no text. -/

namespace Sys2Proof.Machine

/-- The no-op alone has an empty text (R102). -/
theorem instrText_eq_empty_iff (i : Instr) : instrText i = "" ↔ i = .nop := by
  cases i with
  | nop => exact ⟨fun _ => rfl, fun _ => rfl⟩
  | cls | ret => simp [instrText]
  | _ => simp [instrText, line2]

/-- The text of a word that is not ambiguous is that of the instruction it decodes to, whatever the key widths of the
listing are (R102; log 14). -/
theorem wordText_of_decode {w : Word} {i : Instr} (ha : ¬ambiguousWord w) (hdec : decodeWith none none w = .ok i) :
    wordText w = instrText i := by
  have hfixed := (fixedKeysDecodeEveryWord (subkey0.getD Config.listingKey0) (subkeyE.getD Config.listingKeyE) w).1 ha
  rw [wordText, hfixed, hdec]

/-- Settles O57: a word that is not ambiguous decodes, and its text is empty exactly for the no-op. -/
theorem emptyMnemonicMeansUnmapped : Obligations.EmptyMnemonicMeansUnmapped := by
  intro w ha
  obtain ⟨i, hdec⟩ := (wordsPartition w).2.2 ha
  rw [wordText_of_decode ha hdec, instrText_eq_empty_iff, hdec, Except.ok.injEq]

end Sys2Proof.Machine
end

section
/-! PROOFS. Load, and the jump to itself (spec/70_reset_and_hazards.md R280, R281, R299): a load by its check of the
size, what the memory and the listing it installs hold, and a cycle that leaves the pointer where it was. -/

namespace Sys2Proof.Machine

/-! ### Load -/

section
variable {image : List Byte}

/-- An image that fits is installed (R280, R281). -/
theorem loadEvent_eq_installed (name path : String) (s : State) (h : image.length ≤ 3584) :
    loadEvent image name path s = .next (s.installed image name path) := by
  rw [loadEvent, load, if_neg (Nat.not_lt.2 h)]

/-- An image that does not fit is `TooLarge` (R280). -/
theorem load_eq_tooLarge (name path : String) (s : State) (h : 3584 < image.length) :
    load image name path s = .error .tooLarge :=
  if_pos h

/-- Memory after a load: the image at `0x200`, and the font and zeros around it (R76, R281). -/
theorem Memory.read_imageMemory (h : image.length ≤ 3584) (a : Nat) :
    Memory.read (imageMemory image) a =
      if 0x200 ≤ a ∧ a < 0x200 + image.length then image.getD (a - 0x200) 0 else font.getD a 0 :=
  Memory.read_writeBytes image [] 0x200 a Memory.wf_nil (by omega)

/-- The listing has a line for each two-byte slot (R31, D30). -/
@[simp] theorem length_listing (m : Memory) (size : Nat) : (listing m size).length = (size + 1) / 2 := by
  simp [listing]

/-- Line `k` of the listing is that of the word at `0x200 + 2k` (R31). -/
theorem getElem?_listing (m : Memory) {size k : Nat} (h : k < (size + 1) / 2) :
    (listing m size)[k]? = some (disasm (Memory.word m (0x200 + 2 * k)) (BitVec.ofNat 16 (0x200 + 2 * k))) := by
  simp [listing, List.getElem?_range h]

end

/-- Settles O44: the load installs the image; registers, stack, display and keypad are those of the reset state. -/
theorem loadInstallsProgram : Obligations.LoadInstallsProgram := by
  intro s image name path hfit
  obtain ⟨hv, hidx, hpc, hsp, hstack, hdt, hst, -, -, hfb, hkey, hbp, hrun, hloaded, hfault, -⟩ := resetValues
  exact ⟨s.installed image name path, loadEvent_eq_installed name path s hfit, hv, hidx, hpc, hsp, hstack, hdt, hst,
    fun a _ => Memory.read_imageMemory hfit a, hfb, hkey, hbp, hrun, hfault, hloaded, length_listing _ _,
    fun _ hk => getElem?_listing _ hk, rfl, rfl⟩

/-- Settles O45: the load answers `TooLarge`, and a failed load as an event answers the state it is given. -/
theorem tooLargeChangesNothing : Obligations.TooLargeChangesNothing := by
  intro s image name path hbig
  have hload := load_eq_tooLarge name path s hbig
  have hevent : loadEvent image name path s = .next s := by rw [loadEvent, hload]
  exact ⟨hload, hevent⟩

/-! ### The jump to itself -/

/-- A jump to its own address leaves the state (R124, R299). -/
theorem exec_jp_self {s : State} {nnn : Addr12} (h : s.pc.toNat = nnn.toNat) : exec (.jp nnn) s = .next s := by
  have hpc : zextAddr nnn = s.pc := BitVec.eq_of_toNat_eq ((toNat_zextAddr nnn).trans h.symm)
  exact congrArg Host.Outcome.next (congrArg s.setPc hpc)

/-- Settles O42: the instruction changes nothing, so the cycle is the breakpoint check. -/
theorem jumpToSelfIsAnEnd : Obligations.JumpToSelfIsAnEnd := by
  intro s nnn hin hl hf hself hpc hdec
  calc step s
    _ = endCycle (exec (.jp nnn) s) := by
      rw [step_eq_cycle hin, cycle_eq_runWord hl hf (State.fetchWord_eq_some hpc), runWord_of_decode hdec]
    _ = .next s.checkBreakpoint := by rw [exec_jp_self hself, endCycle_next, hf]; rfl
    _ = .next (s.setRun (s.run && !decide (s.pc ∈ s.bp))) := by rw [State.checkBreakpoint_eq, List.contains_eq_mem]

end Sys2Proof.Machine
end

section
/-! PROOFS. The drivers (spec/70_reset_and_hazards.md R296, R297): a cycle leaves the host's part of the state but
`RUN`, so `CatchUp` alone counts in `EXEC` and neither driver moves the pacing clock while it executes; what
`ExecuteForDuration` counts; and that a cycle, and a loop that does not honour a stop, do the same whatever `RUN` is. -/

namespace Sys2Proof.Machine

section
variable {s t u : State} {go : State → Bool} {count : State → State} {n : Nat}

/-! ### What a cycle leaves -/

/-- An instruction leaves the host's part of the state, but for `RUN` (R255). -/
theorem Effect.eq_withHostOf {i : Instr} (h : Effect s i t) : t = (t.withHostOf s).setRun t.run := by
  obtain ⟨-, hbp, hdis, hprog, hloaded, hips, ht0, hexecuted, hdraws, hinbox⟩ := h.host_state_eq
  simp only [State.setRun, State.withHostOf, ← hbp, ← hdis, ← hprog, ← hloaded, ← hips, ← ht0, ← hexecuted, ← hdraws,
    ← hinbox]

/-- A cycle leaves the host's part of the state, but for `RUN` (R120, R255). -/
theorem eq_withHostOf_of_cycle (h : cycle s = .next t) : t = (t.withHostOf s).setRun t.run := by
  obtain ⟨-, -, ⟨-, rfl⟩ | ⟨-, i, u, -, hu, rfl⟩⟩ := cycle_eq_next h
  · rfl
  · have hhost := (exec_effect hu).eq_withHostOf
    split
    · exact hhost
    · rw [State.checkBreakpoint_eq]
      exact (congrArg (State.setRun · (u.run && !u.bp.contains u.pc)) hhost :)

/-- A cycle does not move the pacing clock (R33). -/
theorem cycle_t0 (h : cycle s = .next t) : t.t0 = s.t0 :=
  (congrArg State.t0 (eq_withHostOf_of_cycle h) :)

/-- A cycle does not count itself in `EXEC` (R33, R296). -/
theorem cycle_executed (h : cycle s = .next t) : t.executed = s.executed :=
  (congrArg State.executed (eq_withHostOf_of_cycle h) :)

/-- A cycle does not change the rate (R33). -/
theorem cycle_ips (h : cycle s = .next t) : t.ips = s.ips :=
  (congrArg State.ips (eq_withHostOf_of_cycle h) :)

/-- A cycle that faults leaves a stopped machine (R232). -/
theorem run_eq_false_of_cycle (h : cycle s = .next t) (ht : t.fault ≠ none) : t.run = false := by
  obtain ⟨r, hr⟩ := Option.ne_none_iff_exists'.1 ht
  rw [(takeFault_of_cycle h hr).2, State.takeFault_run]

/-! ### The loop -/

/-- A driver executes nothing where its condition does not hold (R296, R297). -/
theorem driveLoop_of_not_go (count : State → State) (n : Nat) (h : go s = false) :
    driveLoop go count n s = .next s := by
  cases n with
  | zero => rfl
  | succ n => simp [driveLoop, h]

/-- What no cycle changes, and the driver's counting does not either, is the same after the loop (R296, R297). -/
theorem driveLoop_keeps_value {α : Type} (f : State → α) (h : driveLoop go count n s = .next t)
    (hcycle : ∀ {v w}, cycle v = .next w → f w = f v) (hcount : ∀ v, f (count v) = f v) : f t = f s :=
  driveLoop_keeps (fun v => f v = f s) go count (fun _ _ hv hc => (hcycle hc).trans hv)
    (fun v hv => (hcount v).trans hv) n s t rfl h

/-- No fault is recorded after the cycles of a driver (R296, R297). -/
theorem CyclesTo.fault_eq_none (h : CyclesTo go count n s u) (hs : s.fault = none)
    (hcount : ∀ v, (count v).fault = v.fault) : u.fault = none := by
  induction n generalizing s with
  | zero => rwa [show u = s from h]
  | succ n ih =>
    obtain ⟨-, -, v, -, hv, hrest⟩ := h
    exact ih hrest ((hcount v).trans hv)

/-- `EXEC` grows by one for each cycle of `CatchUp` (R296). -/
theorem CyclesTo.executed_eq (h : CyclesTo go State.countExecuted n s u) : u.executed = s.executed + n := by
  induction n generalizing s with
  | zero => rw [show u = s from h, Nat.add_zero]
  | succ n ih =>
    obtain ⟨-, -, v, hv, -, hrest⟩ := h
    have hsum : u.executed = v.executed + 1 + n := ih hrest
    have hexecuted := cycle_executed hv
    omega

/-! ### `CatchUp` -/

theorem catchUp_of_not_loaded (now : Nat) (hl : s.loaded = false) : catchUp now s = .refused .notLoaded :=
  if_pos hl

theorem catchUp_of_rate (now : Nat) (hl : s.loaded = true) (hr : s.ips = 0 ∨ 1000000 < s.ips) :
    catchUp now s = .refused (.pacerRateOutOfRange s.ips) := by
  rw [catchUp, if_neg (by simp [hl]), if_pos hr]

/-- `CatchUp` that completes is its loop (R296). -/
theorem driveLoop_of_catchUp {now : Nat} (h : catchUp now s = .next t) :
    driveLoop State.run State.countExecuted (owedCycles now s - s.executed) s = .next t := by
  unfold catchUp at h
  split at h
  · cases h
  split at h
  · cases h
  split at h
  · cases h
  exact h

/-- `CatchUp`'s loop counts the cycles it executes in `EXEC`, at most `n`, and `n` where the machine still runs. -/
theorem driveLoop_countExecuted (hf : s.fault = none) (h : driveLoop State.run State.countExecuted n s = .next t) :
    ∃ k, t.executed = s.executed + k ∧ k ≤ n ∧ DriverLeaves State.run State.countExecuted k s t ∧
      (t.run = true → k = n) := by
  obtain ⟨k, u, hk, hcycles, ⟨rfl, hend⟩ | ⟨-, hfault, hrun, hcycle, hnew⟩⟩ := driveLoop_eq_next _ _ n s t h
  · refine ⟨k, hcycles.executed_eq, hk, ⟨_, hcycles, .inl rfl⟩, fun hgo => ?_⟩
    obtain hend | hend | hend := hend
    · exact hend
    · exact absurd hgo (Bool.eq_false_iff.1 hend)
    · exact absurd (hcycles.fault_eq_none hf fun _ => rfl) hend
  · have hstop := run_eq_false_of_cycle hcycle hnew
    exact ⟨k, (cycle_executed hcycle).trans hcycles.executed_eq, hk, ⟨u, hcycles, .inr ⟨hfault, hrun, hcycle, hnew⟩⟩,
      fun hgo => absurd hgo (Bool.eq_false_iff.1 hstop)⟩

/-! ### `ExecuteForDuration` -/

theorem executeForDuration_of_not_loaded (now ms : Nat) (hl : s.loaded = false) :
    executeForDuration now ms s = .refused .notLoaded :=
  if_pos hl

/-- `ExecuteForDuration` that completes is its loop, begun with the pacing clock reset (R297). -/
theorem warpLoop_of_executeForDuration {now ms : Nat} (h : executeForDuration now ms s = .next t) :
    warpLoop Config.warpHonoursStop (Config.warpCycles s.openDraws ms) (s.warpStart now) = .next t := by
  unfold executeForDuration at h
  split at h
  · cases h
  · exact h

/-- The count after `k` cycles is `k` and the count of the rest (R297). -/
theorem warpCount_of_cyclesTo {b : Bool} {k : Nat} (m : Nat)
    (h : CyclesTo (fun v => v.run || !b) (fun v => v) k s u) :
    warpCount b (k + m) s = k + warpCount b m u := by
  induction k generalizing s with
  | zero => rw [show u = s from h, Nat.zero_add, Nat.zero_add]
  | succ k ih =>
    obtain ⟨hf, hgo, v, hv, hvf, hrest⟩ := h
    have hgo : (s.run || !b) = true := hgo
    have hcounted : warpCount b (k + m + 1) s = warpCount b (k + m) v + 1 := by simp [warpCount, hgo, hf, hv, hvf]
    rw [Nat.succ_add, hcounted, ih hrest]
    omega

/-- Nothing is counted where the loop's condition does not hold (R297). -/
theorem warpCount_of_not_go {b : Bool} (n : Nat) (h : (s.run || !b) = false) : warpCount b n s = 0 := by
  cases n with
  | zero => rfl
  | succ n => simp [warpCount, h]

/-- Nothing is counted on a faulted machine (R234, R297). -/
theorem warpCount_of_faulted (b : Bool) (n : Nat) (h : s.fault ≠ none) : warpCount b n s = 0 := by
  cases n with
  | zero => rfl
  | succ n => simp [warpCount, h]

/-- A cycle that faults is not counted (R232, R297). -/
theorem warpCount_of_cycle_faults (b : Bool) (n : Nat) (h : cycle s = .next t) (ht : t.fault ≠ none) :
    warpCount b n s = 0 := by
  cases n with
  | zero => rfl
  | succ n => simp [warpCount, h, Option.isSome_iff_ne_none.2 ht]

/-- The loop of `ExecuteForDuration` leaves what the cycles it counts leave, at most `n`, and `n` unless a fault, or a
stop it honours, ended it (R297). -/
theorem warpLoop_eq_next {b : Bool} (h : warpLoop b n s = .next t) :
    DriverLeaves (fun v => v.run || !b) (fun v => v) (warpCount b n s) s t ∧ warpCount b n s ≤ n ∧
      (t.fault = none → (t.run = true ∨ b = false) → warpCount b n s = n) := by
  obtain ⟨k, u, hk, hcycles, hend⟩ := driveLoop_eq_next _ _ n s t h
  obtain ⟨m, rfl⟩ := Nat.exists_eq_add_of_le hk
  have hsplit := warpCount_of_cyclesTo m hcycles
  obtain ⟨rfl, hend⟩ | ⟨-, hfault, hgo, hcycle, hnew⟩ := hend
  · have hrest : warpCount b m t = 0 := by
      obtain hlast | hgo | hf := hend
      · rw [show m = 0 by omega]; rfl
      · exact warpCount_of_not_go m hgo
      · exact warpCount_of_faulted b m hf
    rw [hsplit, hrest]
    refine ⟨⟨t, hcycles, .inl rfl⟩, hk, fun hf hrun => ?_⟩
    obtain hlast | hgo | hfault := hend
    · exact hlast
    · rw [Bool.or_eq_false_iff, Bool.not_eq_false'] at hgo
      simp [hgo] at hrun
    · exact absurd hf hfault
  · rw [hsplit, warpCount_of_cycle_faults b m hcycle hnew]
    exact ⟨⟨u, hcycles, .inr ⟨hfault, hgo, hcycle, hnew⟩⟩, hk, fun hf => absurd hf hnew⟩

/-! ### `RUN` and a driver that does not look at it -/

/-- Two outcomes that differ in `RUN` alone: next states equal but for it, or one stop. -/
inductive SameButRun : Result → Result → Prop
  | next (s : State) (r : Bool) : SameButRun (.next s) (.next (s.setRun r))
  | fault (r : Fault) : SameButRun (.fault r) (.fault r)
  | refused (r : Refusal) : SameButRun (.refused r) (.refused r)

/-- The host's part is put around a state's program view alone (R255). -/
theorem State.withHostOf_congr (h : State) (hview : s.programView = t.programView) :
    t.withHostOf h = s.withHostOf h := by
  rw [State.eq_withHostOf hview]
  rfl

/-- Two next states of one view, each with the host's part of `s` but for `RUN`, differ in `RUN` alone. -/
theorem eq_setRun_of_programView {t' : State} (hview : t.programView = t'.programView)
    (ht : t = (t.withHostOf s).setRun t.run) (ht' : t' = (t'.withHostOf s).setRun t'.run) : t' = t.setRun t'.run :=
  calc t'
    _ = (t'.withHostOf s).setRun t'.run := ht'
    _ = (t.withHostOf s).setRun t'.run := by rw [State.withHostOf_congr s hview]
    _ = ((t.withHostOf s).setRun t.run).setRun t'.run := rfl
    _ = t.setRun t'.run := by rw [← ht]

/-- Two outcomes a program cannot tell apart differ in `RUN` alone where their next states do (R255). -/
theorem SameToProgram.sameButRun {o o' : Result} (h : SameToProgram o o')
    (hnext : ∀ t t', o = .next t → o' = .next t' → t.programView = t'.programView → t' = t.setRun t'.run) :
    SameButRun o o' :=
  match o, o', h with
  | .next t, .next t', hview => by rw [hnext t t' rfl rfl hview]; exact .next t t'.run
  | .fault r, .fault _, rfl => .fault r
  | .refused r, .refused _, rfl => .refused r

/-- A cycle makes the same of a state whatever its `RUN` is, but for `RUN` (R255, R297). -/
theorem cycle_setRun (s : State) (r : Bool) : SameButRun (cycle s) (cycle (s.setRun r)) := by
  have hsame : SameToProgram (cycle s) (cycle (s.setRun r)) := cycle_withHostOf (t := s.setRun r) rfl
  exact hsame.sameButRun fun t t' hc hc' hview =>
    eq_setRun_of_programView hview (eq_withHostOf_of_cycle hc) (eq_withHostOf_of_cycle (s := s.setRun r) hc')

/-- Not honouring a stop, `ExecuteForDuration` counts and leaves the same whatever `RUN` is, but for `RUN` (R297,
D31). -/
theorem warp_setRun (n : Nat) (s : State) (r : Bool) :
    warpCount false n (s.setRun r) = warpCount false n s ∧
      SameButRun (warpLoop false n s) (warpLoop false n (s.setRun r)) := by
  induction n generalizing s r with
  | zero => exact ⟨rfl, .next s r⟩
  | succ n ih =>
    by_cases hf : s.fault = none
    · have hcycle := cycle_setRun s r
      simp only [warpLoop, Bool.not_false, Bool.or_true] at ih ⊢
      simp only [warpCount, driveLoop, Bool.not_false, Bool.or_true, Bool.true_and, State.setRun_fault, hf,
        Option.isNone_none, if_true]
      generalize cycle s = o, cycle (s.setRun r) = o' at hcycle
      cases hcycle with
      | next u r' =>
        by_cases hu : u.fault.isSome = true
        · simp only [State.setRun_fault, hu, if_true]
          exact ⟨trivial, .next u r'⟩
        · obtain ⟨hcount, hloop⟩ := ih u r'
          simp only [State.setRun_fault, hu]
          exact ⟨congrArg Nat.succ hcount, hloop⟩
      | fault f => exact ⟨rfl, .fault f⟩
      | refused f => exact ⟨rfl, .refused f⟩
    · have hf' : (s.setRun r).fault ≠ none := hf
      rw [warpCount_of_faulted false _ hf, warpCount_of_faulted false _ hf', warpLoop, driveLoop_of_faulted _ _ _ hf,
        warpLoop, driveLoop_of_faulted _ _ _ hf']
      exact ⟨rfl, .next s r⟩

/-- A loop that completes completes from another value of `RUN` too, with the same state but for `RUN`. -/
theorem warpLoop_setRun_eq_next (r : Bool) (h : warpLoop false n s = .next t) :
    ∃ r', warpLoop false n (s.setRun r) = .next (t.setRun r') := by
  obtain ⟨-, hsame⟩ := warp_setRun n s r
  rw [h] at hsame
  generalize warpLoop false n (s.setRun r) = o at hsame
  cases hsame with
  | next _ r' => exact ⟨r', rfl⟩

end

/-! ### The statements -/

/-- Settles O52: what is owed above `EXEC` is the bound of the loop, which counts its cycles in `EXEC`. -/
theorem catchUpExecutesWhatIsOwed : Obligations.CatchUpExecutesWhatIsOwed := by
  intro s t now owed _ hf howed h
  have hloop : driveLoop State.run State.countExecuted (owed - s.executed) s = .next t := by
    rw [howed]
    exact driveLoop_of_catchUp h
  have ht0 := driveLoop_keeps_value State.t0 hloop cycle_t0 fun _ => rfl
  have hips := driveLoop_keeps_value State.ips hloop cycle_ips fun _ => rfl
  obtain ⟨k, hexecuted, hk, hleaves, hrun⟩ := driveLoop_countExecuted hf hloop
  refine ⟨⟨k, hexecuted, hleaves⟩, by omega, ht0, hips, fun hgo => ?_, fun hle => ?_, fun hstop => ?_⟩
  · have hall := hrun hgo
    omega
  · rw [Nat.sub_eq_zero_of_le hle] at hloop
    exact (Host.Outcome.next.inj hloop).symm
  · rw [driveLoop_of_not_go _ _ hstop] at hloop
    exact (Host.Outcome.next.inj hloop).symm

/-- Settles O53: the two refusals, and 4000 microseconds at 2000 microseconds a cycle. -/
theorem catchUpRefusalsAndExample : Obligations.CatchUpRefusalsAndExample := by
  refine ⟨fun s now => catchUp_of_not_loaded now, fun s now => catchUp_of_rate now, fun s hips => ?_⟩
  rw [owedCycles, hips, Nat.add_sub_cancel_left]

/-- Settles O54: the loop starts from the pacing reset, and its cycles leave the pacing state as it is; the rest is
what the loop leaves, and that it does not look at `RUN` where it does not honour a stop. -/
theorem warpResetsThePacer : Obligations.WarpResetsThePacer := by
  refine ⟨fun s t now ms h => ?_, fun b n s t => warpLoop_eq_next, fun s n hrun => ?_, fun s n r => ?_,
    fun s now ms => executeForDuration_of_not_loaded now ms⟩
  · have hloop := warpLoop_of_executeForDuration h
    have ht0 := driveLoop_keeps_value State.t0 hloop cycle_t0 fun _ => rfl
    have hexecuted := driveLoop_keeps_value State.executed hloop cycle_executed fun _ => rfl
    have hips := driveLoop_keeps_value State.ips hloop cycle_ips fun _ => rfl
    obtain ⟨hleaves, -⟩ := warpLoop_eq_next hloop
    exact ⟨ht0, hexecuted, hips, hleaves⟩
  · have hgo : (s.run || !true) = false := by simp [hrun]
    exact ⟨driveLoop_of_not_go _ n hgo, warpCount_of_not_go n hgo⟩
  · obtain ⟨hcount, -⟩ := warp_setRun n s r
    exact ⟨hcount, fun t => warpLoop_setRun_eq_next r⟩

end Sys2Proof.Machine
end
